-- ==== Sys2Proof/Word.lean ====
section
/-! DEFINITION. The word types of the SWPE (00_scope.md rule R9: every register value is an unsigned
integer of the stated width). -/

namespace Sys2Proof

/-- A 32-bit host word (00_scope.md rule R8, 20_memory.md rule R53). -/
abbrev Word := BitVec 32

/-- One byte of the frame (44_frame_checksum.md rule R180). -/
abbrev Byte := BitVec 8

/-- The level of the line: `true` is 1 (high), `false` is 0 (low). -/
abbrev Level := Bool

end Sys2Proof
end

