-- ==== Sys2Proof/Syntax.lean ====
section
/-! DEFINITION. The 20 rows of spec/opcode_table.json, one constructor each: the 11 host transactions of
30_encoding.md rule R73 and the 9 phases of rule R74. -/

namespace Sys2Proof

/-- An "instruction" of the SWPE.

A host transaction (format HT, rule R70) keeps both operand fields of its word: `a`, the 5-bit byte offset
`A = addr[4:0]`, and `d`, the 32-bit write data `D`, the bits the machine ignores included, so that no bit of
the 38-bit word is lost. A phase (format PH, rule R71) has no operands: those of its tick rule are the fixed
state registers. -/
inductive Instr where
  /-- `WR CTRL, D` with `D[0] = 1` (45_host_interface.md rules R200 and R201). -/
  | acquire (a : BitVec 5) (d : Word)
  /-- `WR CTRL, D` with `D[0] = 0` (rule R202). -/
  | wrCtrlNop (a : BitVec 5) (d : Word)
  /-- A write to the read-only STATUS (rule R206). -/
  | wrStatus (a : BitVec 5) (d : Word)
  /-- A write to the read-only DATA0 (rule R206). -/
  | wrData0 (a : BitVec 5) (d : Word)
  /-- A write to the read-only DATA1 (rule R206). -/
  | wrData1 (a : BitVec 5) (d : Word)
  /-- A write to an offset in 0x10..0x1F (rule R206). -/
  | wrUnmapped (a : BitVec 5) (d : Word)
  /-- `RD CTRL` (rule R203). -/
  | rdCtrl (a : BitVec 5) (d : Word)
  /-- `RD STATUS` (rule R204). -/
  | rdStatus (a : BitVec 5) (d : Word)
  /-- `RD DATA0` (rule R205). -/
  | rdData0 (a : BitVec 5) (d : Word)
  /-- `RD DATA1` (rule R205). -/
  | rdData1 (a : BitVec 5) (d : Word)
  /-- A read of an offset in 0x10..0x1F (rule R207). -/
  | rdUnmapped (a : BitVec 5) (d : Word)
  /-- The tick of phase 0 (rule R210). -/
  | idle
  /-- The tick of phase 1 (41_start_sequence.md rule R120). -/
  | startLow1
  /-- The tick of phase 2 (rule R121). -/
  | startLow2
  /-- The tick of phase 3 (rule R122). -/
  | startReady
  /-- The tick of phase 4 (42_ack_handshake.md rule R140). -/
  | ackWaitLow
  /-- The tick of phase 5 (rule R141). -/
  | ackWaitHigh
  /-- The tick of phase 6 (rule R142). -/
  | ackWaitRelease
  /-- The tick of phase 7 (43_bit_deserializer.md rule R160). -/
  | bitWaitGuard
  /-- The tick of phase 8 (rule R161). -/
  | bitMeasureHigh
  deriving DecidableEq, Repr

end Sys2Proof
end

