-- ==== Sys2Proof/WellFormed.lean ====
section
/-! DEFINITION. Which terms of `Instr` are instructions: the operand fields of a host transaction must be those
of its row of 30_encoding.md rule R73 (the columns `A[4:2]` and `D[0]`). -/

namespace Sys2Proof

/-- The column `A[4:2]` of rule R73: the bits of the byte offset that select the register. -/
abbrev selBits (a : BitVec 5) : BitVec 3 := a.extractLsb' 2 3

/-- An instruction as the encoding of rule R73 allows it. The check of each row is its `A[4:2]` column, and for
the two rows of CTRL its `D[0]` column too. A phase has no operands, so nothing is checked (rule R71). -/
def Instr.WellFormed : Instr → Bool
  | .acquire a d => selBits a == 0#3 && d.getLsbD 0
  | .wrCtrlNop a d => selBits a == 0#3 && !d.getLsbD 0
  | .wrStatus a _ => selBits a == 1#3
  | .wrData0 a _ => selBits a == 2#3
  | .wrData1 a _ => selBits a == 3#3
  | .wrUnmapped a _ => a.getLsbD 4
  | .rdCtrl a _ => selBits a == 0#3
  | .rdStatus a _ => selBits a == 1#3
  | .rdData0 a _ => selBits a == 2#3
  | .rdData1 a _ => selBits a == 3#3
  | .rdUnmapped a _ => a.getLsbD 4
  | .idle => true
  | .startLow1 => true
  | .startLow2 => true
  | .startReady => true
  | .ackWaitLow => true
  | .ackWaitHigh => true
  | .ackWaitRelease => true
  | .bitWaitGuard => true
  | .bitMeasureHigh => true

end Sys2Proof
end

