-- ==== Sys2Proof/Decode.lean ====
section
/-! DEFINITION. The decoder and the encoder of 30_encoding.md: the 38-bit host transactions (format HT, rules R70
and R73) and the 4-bit phase codes (format PH, rules R71 and R74). Decoding is total (rule R76): a word of either
format gives its row's instruction or a rejection by name. -/

namespace Sys2Proof

/-- What the machine can be given to decode: a host transaction word or a phase code. The two formats are separate
maps (30_encoding.md): which one applies is decided by where the word comes from, never by its bits. -/
inductive Code where
  | ht (w : BitVec 38)
  | ph (c : BitVec 4)
  deriving DecidableEq, Repr

/-- Why a word is no instruction. -/
inductive DecodeError where
  /-- A phase code in 9..15 (rule R75: reserved; rule R76: the decoder answers "reserved"). -/
  | reservedPhase (c : BitVec 4)
  deriving DecidableEq, Repr

/-! ### The fields of a host transaction (rule R70) -/

/-- `W`, bit 37: 1 for a write, 0 for a read. -/
def htW (w : BitVec 38) : Bool := w.getLsbD 37
/-- `A`, bits 36:32: the byte offset. -/
def htA (w : BitVec 38) : BitVec 5 := w.extractLsb' 32 5
/-- `D`, bits 31:0: the write data. -/
def htD (w : BitVec 38) : Word := w.extractLsb' 0 32

/-- The word `W*2^37 + A*2^32 + D` (rule R70). -/
def htWord (w : Bool) (a : BitVec 5) (d : Word) : BitVec 38 := BitVec.ofBool w ++ a ++ d

/-- The registers of 20_memory.md rule R52. -/
inductive Reg where
  | ctrl | status | data0 | data1 | unmapped
  deriving DecidableEq, Repr

/-- Address decode: `addr[4:2]` selects the register and `addr[1:0]` is ignored (20_memory.md rules R51 and R52).
`addr[4] = 1` is the range 4..7 of `addr[4:2]`, the unmapped offsets. -/
def regOf (a : BitVec 5) : Reg :=
  if a.getLsbD 4 then .unmapped
  else match a.getLsbD 3, a.getLsbD 2 with
    | false, false => .ctrl
    | false, true => .status
    | true, false => .data0
    | true, true => .data1

/-- CTRL.START, bit 0 of the write data (10_state.md rule R28; 30_encoding.md rule R72). -/
def startBit (d : Word) : Bool := d.getLsbD 0

/-- The row of a host transaction (rule R73). No word is illegal (rule R75), so there is always one. -/
def decodeHT (w : BitVec 38) : Instr :=
  match htW w, regOf (htA w) with
  | true, .ctrl => if startBit (htD w) then .acquire (htA w) (htD w) else .wrCtrlNop (htA w) (htD w)
  | true, .status => .wrStatus (htA w) (htD w)
  | true, .data0 => .wrData0 (htA w) (htD w)
  | true, .data1 => .wrData1 (htA w) (htD w)
  | true, .unmapped => .wrUnmapped (htA w) (htD w)
  | false, .ctrl => .rdCtrl (htA w) (htD w)
  | false, .status => .rdStatus (htA w) (htD w)
  | false, .data0 => .rdData0 (htA w) (htD w)
  | false, .data1 => .rdData1 (htA w) (htD w)
  | false, .unmapped => .rdUnmapped (htA w) (htD w)

/-- The row of a phase code (rule R74); 9..15 are rejected by name (rule R76). -/
def decodePH (c : BitVec 4) : Except DecodeError Instr :=
  match c.toNat with
  | 0 => .ok .idle
  | 1 => .ok .startLow1
  | 2 => .ok .startLow2
  | 3 => .ok .startReady
  | 4 => .ok .ackWaitLow
  | 5 => .ok .ackWaitHigh
  | 6 => .ok .ackWaitRelease
  | 7 => .ok .bitWaitGuard
  | 8 => .ok .bitMeasureHigh
  | _ => .error (.reservedPhase c)

/-- The decoder of rule R76. -/
def decode : Code → Except DecodeError Instr
  | .ht w => .ok (decodeHT w)
  | .ph c => decodePH c

/-- The word of an instruction, from the formats of rules R70 and R71 and the codes of rule R74. -/
def encode : Instr → Code
  | .acquire a d => .ht (htWord true a d)
  | .wrCtrlNop a d => .ht (htWord true a d)
  | .wrStatus a d => .ht (htWord true a d)
  | .wrData0 a d => .ht (htWord true a d)
  | .wrData1 a d => .ht (htWord true a d)
  | .wrUnmapped a d => .ht (htWord true a d)
  | .rdCtrl a d => .ht (htWord false a d)
  | .rdStatus a d => .ht (htWord false a d)
  | .rdData0 a d => .ht (htWord false a d)
  | .rdData1 a d => .ht (htWord false a d)
  | .rdUnmapped a d => .ht (htWord false a d)
  | .idle => .ph 0x0#4
  | .startLow1 => .ph 0x1#4
  | .startLow2 => .ph 0x2#4
  | .startReady => .ph 0x3#4
  | .ackWaitLow => .ph 0x4#4
  | .ackWaitHigh => .ph 0x5#4
  | .ackWaitRelease => .ph 0x6#4
  | .bitWaitGuard => .ph 0x7#4
  | .bitMeasureHigh => .ph 0x8#4

/-! ### The opcode table's own columns -/

/-- The columns "match" and "mask" of an instruction's row in rule R73 (format HT) or in spec/opcode_table.json
(format PH). -/
inductive Row where
  | ht (pattern mask : BitVec 38)
  | ph (pattern mask : BitVec 4)
  deriving DecidableEq, Repr

/-- A word matches a row: `(word & mask) == match` (rule R76). -/
def Row.Matches : Row → Code → Bool
  | .ht pattern mask, .ht w => w &&& mask == pattern
  | .ph pattern mask, .ph c => c &&& mask == pattern
  | .ht _ _, .ph _ => false
  | .ph _ _, .ht _ => false

/-- The row of an instruction, copied from the table. -/
def rowOf : Instr → Row
  | .acquire _ _ => .ht 0x2000000001#38 0x3C00000001#38
  | .wrCtrlNop _ _ => .ht 0x2000000000#38 0x3C00000001#38
  | .wrStatus _ _ => .ht 0x2400000000#38 0x3C00000000#38
  | .wrData0 _ _ => .ht 0x2800000000#38 0x3C00000000#38
  | .wrData1 _ _ => .ht 0x2C00000000#38 0x3C00000000#38
  | .wrUnmapped _ _ => .ht 0x3000000000#38 0x3000000000#38
  | .rdCtrl _ _ => .ht 0x0000000000#38 0x3C00000000#38
  | .rdStatus _ _ => .ht 0x0400000000#38 0x3C00000000#38
  | .rdData0 _ _ => .ht 0x0800000000#38 0x3C00000000#38
  | .rdData1 _ _ => .ht 0x0C00000000#38 0x3C00000000#38
  | .rdUnmapped _ _ => .ht 0x1000000000#38 0x3000000000#38
  | .idle => .ph 0x0#4 0xF#4
  | .startLow1 => .ph 0x1#4 0xF#4
  | .startLow2 => .ph 0x2#4 0xF#4
  | .startReady => .ph 0x3#4 0xF#4
  | .ackWaitLow => .ph 0x4#4 0xF#4
  | .ackWaitHigh => .ph 0x5#4 0xF#4
  | .ackWaitRelease => .ph 0x6#4 0xF#4
  | .bitWaitGuard => .ph 0x7#4 0xF#4
  | .bitMeasureHigh => .ph 0x8#4 0xF#4

/-! ### The host's view of the table -/

/-- The code that a word of the opcode table's format stands for. A row of format PH has 4 bits, one byte; a row of
format HT has 38, five bytes. `nbits` tells the two apart; bits beyond the format's width must be 0. -/
def tableCode (nbits w : Nat) : Option Code :=
  if nbits ≤ 8 then
    if w < 16 then some (.ph (BitVec.ofNat 4 w)) else none
  else if w < 2 ^ 38 then some (.ht (BitVec.ofNat 38 w)) else none

/-- The instruction the decoder reads from a word of the opcode table. -/
def decodeTableWord (nbits w : Nat) : Option Instr :=
  match tableCode nbits w with
  | some c => (decode c).toOption
  | none => none

end Sys2Proof
end

