-- ==== Sys2Proof/Config.lean ====
section
/-! DEFINITION. What an instance of the block fixes (the parameters of 00_scope.md rule R6 and the constraints of
rule R7), and the one free value of the model: a level of the line that no stimulus names. -/

namespace Sys2Proof

/-- The implementation parameters of rule R6, each under its name there. They are natural numbers: the rules
compute with them exactly before anything is loaded into a register. -/
structure Params where
  /-- `P_TICK_NS`: the length of one tick in ns. -/
  tickNs : Nat
  /-- `P_BUDGET`: the samples allowed per wait before timeout. -/
  budget : Nat
  /-- `P_T_LOW1`: the ticks of the first low stage of the start pulse. -/
  tLow1 : Nat
  /-- `P_T_LOW2`: the ticks of the second low stage of the start pulse. -/
  tLow2 : Nat
  /-- `P_T_MIN_LOW`: the lower bound of `P_T_LOW1 + P_T_LOW2`. -/
  tMinLow : Nat
  /-- `P_T_READY`: the ticks of the driven-high ready pulse. -/
  tReady : Nat
  /-- `P_THRESH_NS`: the bit classification threshold in ns. -/
  threshNs : Nat
  /-- `P_ACK_FAIL_RELEASE`: whether an ACK failure also releases the line. -/
  ackFailRelease : Bool
  deriving DecidableEq, Repr

namespace Params

/-- The defaults of rule R6. -/
def default : Params where
  tickNs := 1000
  budget := 100
  tLow1 := 30000
  tLow2 := 20000
  tMinLow := 18000
  tReady := 40
  threshNs := 45000
  ackFailRelease := false

/-- A legal instance (rule R7). The constraint `P_THRESH_NS >= 0` holds of every natural number. -/
abbrev Legal (p : Params) : Prop :=
  1 ≤ p.tickNs ∧
  (1 ≤ p.budget ∧ p.budget ≤ 65535) ∧
  (1 ≤ p.tLow1 ∧ p.tLow1 ≤ 65535) ∧
  (1 ≤ p.tLow2 ∧ p.tLow2 ≤ 65535) ∧
  p.tMinLow ≤ p.tLow1 + p.tLow2 ∧
  (1 ≤ p.tReady ∧ p.tReady ≤ 65535) ∧
  0 ≤ p.threshNs

/-- `T_S` of 44_frame_checksum.md rule R187: the ticks of the start sequence. -/
def startTicks (p : Params) : Nat := p.tLow1 + p.tLow2 + p.tReady

/-- `T_S + 83 * P_BUDGET`, the latest tick at which an acquisition ends (44_frame_checksum.md rule R187). -/
def maxTicks (p : Params) : Nat := p.startTicks + 83 * p.budget

end Params

/-- The level of the line at the `n`-th sample of which the state says nothing (10_state.md rule R26: "a free draw
per sample, under no law"; 93_implementation_defined.md I1, `any value`). It has no body: nothing can be proved
of its values, so a claim holds for all of them. -/
opaque Config.freeLevel : Nat → Level

end Sys2Proof
end

