-- ==== Sys2Proof/Machine/State.lean ====
section
/-! DEFINITION. The state of the model. `Block` is the SWPE itself: exactly the fifteen fields of 10_state.md rule
R20. `State` adds what the other agents of 00_scope.md rule R5 bring: the parameters of the instance, the
environment's schedule, the line levels the sensor has in store, and the words the host has read. -/

namespace Sys2Proof.Machine

/-- The control state (10_state.md rule R21): the nine legal codes, and no constructor for the reserved ones
(30_encoding.md rule R75). -/
inductive Phase where
  | idle | startLow1 | startLow2 | startReady
  | ackWaitLow | ackWaitHigh | ackWaitRelease
  | bitWaitGuard | bitMeasureHigh
  deriving DecidableEq, Repr

/-- The outcome of the most recent acquisition (rule R32). Codes 5..7 are never produced and have no
constructor. -/
inductive Result where
  | none | ok | ackFail | byteFail | cksumMismatch
  deriving DecidableEq, Repr

/-- The ACK stage that timed out (rule R33), under the source's names. -/
inductive AckStage where
  | none | awaitingAckLow | awaitingAckHigh | awaitingBusRelease
  deriving DecidableEq, Repr

/-- "The complete state of one SWPE" (rule R20), field by field. One-bit fields are `Bool`. -/
structure Block where
  /-- The control state (rule R21). -/
  phase : Phase
  /-- The down-counter of delays and waits (rule R22). -/
  cnt : BitVec 16
  /-- The frame shift register (rule R23). -/
  sr : BitVec 40
  /-- The index, 0..39, of the bit being decoded, in reception order (rule R24). -/
  nbit : BitVec 6
  /-- Output enable of the line (rule R25). -/
  lineOe : Bool
  /-- The level driven while `lineOe` is 1 (rule R25). -/
  lineOut : Level
  /-- STATUS.BUSY (rule R30). -/
  busy : Bool
  /-- STATUS.DONE (rule R31). -/
  done : Bool
  /-- STATUS.RESULT (rule R32). -/
  result : Result
  /-- STATUS.ACK_STAGE (rule R33). -/
  ackStage : AckStage
  /-- STATUS.FAIL_BYTE (rule R34). -/
  failByte : BitVec 3
  /-- STATUS.FAIL_BIT (rule R34). -/
  failBit : BitVec 3
  /-- STATUS.FAIL_WAIT (rule R34): 0 the guard wait, 1 the measurement. -/
  failWait : Bool
  /-- DATA0 (rule R36). -/
  data0 : Word
  /-- DATA1[7:0] (rule R37). -/
  data1 : Byte
  deriving DecidableEq, Repr

/-- The reset value of every field (rule R41). -/
def Block.reset : Block where
  phase := .idle
  cnt := 0#16
  sr := 0#40
  nbit := 0#6
  lineOe := false
  lineOut := true
  busy := false
  done := false
  result := .none
  ackStage := .none
  failByte := 0#3
  failBit := 0#3
  failWait := false
  data0 := 0#32
  data1 := 0#8

/-- One clock cycle as the environment lays it out: whether reset is applied in it, the host's access if there is
one (a 38-bit transaction word, 30_encoding.md rule R70), and whether the engine's tick falls in it
(20_memory.md rule R60). -/
structure ClockCycle where
  reset : Bool
  access : Option (BitVec 38)
  tick : Bool
  deriving DecidableEq, Repr

/-- The state of the model: the block, and the agents around it (00_scope.md rule R5). -/
structure State where
  /-- The parameters of this instance (00_scope.md rule R6). No step writes them. -/
  params : Params
  /-- The SWPE (10_state.md rule R20). -/
  blk : Block
  /-- The cycles to come, first first: what the host, the reset agent and the time base will do. After the last of
  them every cycle holds a tick and nothing else. MODEL'S OWN, DESIGN CHOICE (log 2). -/
  inputs : List ClockCycle
  /-- The levels the sensor will show at the next samples, first first: the list of a stimulus of 30_encoding.md
  rule R79. MODEL'S OWN, DESIGN CHOICE (log 3). -/
  line : List Level
  /-- What a sample past `line` is: 1 if set, as rule R79 says of a stimulus that is used up; a free draw if clear, as
  rule R26 says of a sensor under no law. MODEL'S OWN, DESIGN CHOICE (log 3). -/
  pulledUp : Bool
  /-- How many samples have been taken beyond `line`: the argument of the free value `Config.freeLevel`.
  MODEL'S OWN, DESIGN CHOICE (log 3). -/
  draws : Nat
  /-- The read-data words `Q` the host has received (rule R70), last first. MODEL'S OWN, DESIGN CHOICE (log 4). -/
  reads : List Word
  deriving DecidableEq, Repr

/-- The machine right after reset: the default instance of 00_scope.md rule R6, every field of the block at its
value of 10_state.md rule R41, and an environment that has asked for nothing (log 5). -/
def State.reset : State where
  params := Params.default
  blk := Block.reset
  inputs := []
  line := []
  pulledUp := false
  draws := 0
  reads := []

/-- Why a step stops the machine. The SWPE itself has no trap and no error response (60_exceptions.md rules R220 and
R225). -/
inductive Fault where
  /-- Raised by `step` when the code it fetched is reserved (30_encoding.md rule R76). "The "reserved" outcome cannot
  occur in a reachable state": here it cannot occur at all, since `Phase` has the nine legal codes only. Safe: the
  machine would stop where no machine goes on. -/
  | reservedEncoding
  deriving DecidableEq, Repr

/-- Why a step has no meaning. -/
inductive Refusal where
  /-- Raised by `exec` alone, for an instruction that has no meaning yet. Safe: nothing can be proved of a run past
  it. No arm raises it now. -/
  | notModelled (mnemonic : String)
  /-- Raised by `step` when the parameters break a constraint of 00_scope.md rule R7 ("A model refuses an instance
  that breaks a constraint"). Safe: nothing can be proved of a run of such an instance. -/
  | illegalInstance
  deriving DecidableEq, Repr

end Sys2Proof.Machine
end

