-- ==== Sys2Proof/Machine/Flags.lean ====
section
/-! DEFINITION. The codes of the control state and of the outcome fields, and the STATUS word assembled from them
(10_state.md rules R21, R29, R32, R33). -/

namespace Sys2Proof.Machine

/-- The phase codes (rule R21). -/
def Phase.code : Phase → BitVec 4
  | .idle => 0#4
  | .startLow1 => 1#4
  | .startLow2 => 2#4
  | .startReady => 3#4
  | .ackWaitLow => 4#4
  | .ackWaitHigh => 5#4
  | .ackWaitRelease => 6#4
  | .bitWaitGuard => 7#4
  | .bitMeasureHigh => 8#4

/-- The phase of a code; none for the reserved codes 9..15 (30_encoding.md rule R75). -/
def Phase.ofCode (c : BitVec 4) : Option Phase :=
  match c.toNat with
  | 0 => some .idle
  | 1 => some .startLow1
  | 2 => some .startLow2
  | 3 => some .startReady
  | 4 => some .ackWaitLow
  | 5 => some .ackWaitHigh
  | 6 => some .ackWaitRelease
  | 7 => some .bitWaitGuard
  | 8 => some .bitMeasureHigh
  | _ => none

/-- The RESULT codes (rule R32). -/
def Result.code : Result → BitVec 3
  | .none => 0#3
  | .ok => 1#3
  | .ackFail => 2#3
  | .byteFail => 3#3
  | .cksumMismatch => 4#3

/-- The ACK_STAGE codes (rule R33). -/
def AckStage.code : AckStage → BitVec 2
  | .none => 0#2
  | .awaitingAckLow => 1#2
  | .awaitingAckHigh => 2#2
  | .awaitingBusRelease => 3#2

/-- The STATUS word, assembled as rule R29 writes it, the first field highest. -/
def statusWord (b : Block) : Word :=
  ((BitVec.ofBool b.lineOut ++ BitVec.ofBool b.lineOe ++ b.phase.code ++ 0b0000#4 ++
    BitVec.ofBool b.failWait ++ b.failBit ++ 0b0#1 ++ b.failByte ++ 0b00#2 ++ b.ackStage.code ++
    0b000#3 ++ b.result.code ++ BitVec.ofBool b.done ++ BitVec.ofBool b.busy : BitVec 30)).setWidth 32

end Sys2Proof.Machine
end

