-- ==== Sys2Proof/Machine/Operands.lean ====
section
/-! DEFINITION. What a rule can read: the level of the line at a sample (10_state.md rules R25 to R27), the register a
host access reaches (20_memory.md rule R52), and the fields of a frame (44_frame_checksum.md rule R180). -/

namespace Sys2Proof.Machine

/-! ### The line port -/

/-- `Sample()` (rule R26): the next level of the list the sensor has in store; past the list, 1 for a stimulus that is
used up (30_encoding.md rule R79), and a free draw for a sensor that no stimulus names. -/
def State.sample (s : State) : Level :=
  match s.line with
  | l :: _ => l
  | [] => if s.pulledUp then true else Config.freeLevel s.draws

/-- The state once that level has been taken. -/
def State.takeSample (s : State) : State :=
  match s.line with
  | _ :: ls => { s with line := ls }
  | [] => { s with draws := s.draws + 1 }

/-- The level of the physical line (rule R27), given whether the sensor pulls it low. Sensor and engine driving at
once is outside the spec (70_reset_and_hazards.md rule R259): while the engine drives, its level is taken. The
engine reads the line through `State.sample` only. -/
def Block.busLevel (b : Block) (sensorPullsLow : Bool) : Level :=
  if b.lineOe then b.lineOut else !sensorPullsLow

/-! ### The host's registers -/

/-- The read-data word of a register: CTRL has no storage and reads 0 (rule R28), STATUS is assembled (rule R29),
DATA0 and DATA1 read their registers (rules R36 and R37), an unmapped offset reads 0 (20_memory.md rule R58). -/
def readReg (r : Reg) (b : Block) : Word :=
  match r with
  | .ctrl => 0#32
  | .status => statusWord b
  | .data0 => b.data0
  | .data1 => b.data1.setWidth 32
  | .unmapped => 0#32

/-- `RegRead(off)` (00_scope.md rule R10). -/
def regRead (off : BitVec 5) (b : Block) : Word := readReg (regOf off) b

/-! ### The frame -/

/-- Byte `i` of a 40-bit frame, `v[39-8i : 32-8i]` (44_frame_checksum.md rule R180). -/
def frameByte (v : BitVec 40) (i : Nat) : Byte := v.extractLsb' (32 - 8 * i) 8

/-- The byte index of bit `nbit`, `nbit / 8` (43_bit_deserializer.md rule R164). -/
def byteIndex (nbit : BitVec 6) : BitVec 3 := BitVec.ofNat 3 (nbit.toNat / 8)

/-- The bit index within that byte in reception order, `nbit mod 8` (rule R164). -/
def bitIndex (nbit : BitVec 6) : BitVec 3 := BitVec.ofNat 3 (nbit.toNat % 8)

/-- The level to leave `L` of a wait phase (30_encoding.md rule R74; 40_edge_wait.md rule R107). -/
def Phase.levelToLeave : Phase → Option Level
  | .ackWaitLow => some true
  | .ackWaitHigh => some false
  | .ackWaitRelease => some true
  | .bitWaitGuard => some false
  | .bitMeasureHigh => some true
  | .idle => none
  | .startLow1 => none
  | .startLow2 => none
  | .startReady => none

/-- The wait phases, codes 4 to 8 (40_edge_wait.md rule R107): those in which the engine samples. -/
def Phase.isWait (ph : Phase) : Bool := ph.levelToLeave.isSome

end Sys2Proof.Machine
end

