-- ==== Sys2Proof/Machine/Ops.lean ====
section
/-! DEFINITION. The shared operations of the rules, each under the name of 00_scope.md rule R10: driving the line,
entering a wait, the wait and delay ticks, the width measurement and its classification, the shift register, the
checksum, and `Complete`, the one way an acquisition ends. The block has no trap to take (60_exceptions.md rule R220): its
failures are outcomes, and `complete` records them all. -/

namespace Sys2Proof.Machine

/-! ### The line and the control state -/

/-- `Drive(oe, out)` (rule R10). -/
def Block.drive (oe : Bool) (out : Level) (b : Block) : Block := { b with lineOe := oe, lineOut := out }

/-- `Release` (44_frame_checksum.md rule R181): the line is driven back to output-high. -/
def Block.release (b : Block) : Block := b.drive true true

/-- A natural number loaded into the 16-bit counter (10_state.md rule R22). Every value a legal instance loads fits
(00_scope.md rule R7). -/
def counterOf (n : Nat) : BitVec 16 := BitVec.ofNat 16 n

/-- Entering a delay phase of `n` ticks: "On entry to a delay phase it is loaded with that phase's length"
(10_state.md rule R22). -/
def Block.enterDelay (ph : Phase) (n : Nat) (b : Block) : Block := { b with phase := ph, cnt := counterOf n }

/-- `EnterWait(ph)` (40_edge_wait.md rule R100). -/
def Block.enterWait (p : Params) (ph : Phase) (b : Block) : Block := { b with phase := ph, cnt := counterOf p.budget }

/-! ### The ends of an acquisition -/

/-- `Complete(res)` (44_frame_checksum.md rule R184). -/
def Block.complete (res : Result) (b : Block) : Block :=
  { b with result := res, done := true, busy := false, phase := .idle }

/-- `AckFail(stage)` (42_ack_handshake.md rule R143). -/
def Block.ackFail (p : Params) (stage : AckStage) (b : Block) : Block :=
  let b := { b with ackStage := stage }
  let b := if p.ackFailRelease then b.drive true true else b
  b.complete .ackFail

/-- `ByteFail(wait)` (43_bit_deserializer.md rule R165). -/
def Block.byteFail (wait : Bool) (b : Block) : Block :=
  let b := { b with failByte := byteIndex b.nbit, failBit := bitIndex b.nbit, failWait := wait }
  b.release.complete .byteFail

/-! ### Delays and waits -/

/-- The tick of a delay phase (41_start_sequence.md rules R120 to R122): count down, and on the last tick `onEnd`. -/
def delayTick (onEnd : Block → Block) (b : Block) : Block :=
  if b.cnt - 1#16 = 0#16 then onEnd b else { b with cnt := b.cnt - 1#16 }

/-- `WaitTick(L, OnEdge, OnTimeout)` at a tick whose sample is `smp` (40_edge_wait.md rule R101). The compare comes
before the counter (rule R102); `onEdge` is given the counter as it was before this tick. -/
def waitTick (L : Level) (onEdge : BitVec 16 → Block → Block) (onTimeout : Block → Block) (smp : Level)
    (b : Block) : Block :=
  if smp ≠ L then onEdge b.cnt b
  else if b.cnt - 1#16 = 0#16 then onTimeout b
  else { b with cnt := b.cnt - 1#16 }

/-! ### Decoding the bits -/

/-- The width `k = P_BUDGET - cnt + 1` of a measured pulse, in samples (rule R103). -/
def width (p : Params) (c : BitVec 16) : Nat := p.budget - c.toNat + 1

/-- `Classify(k)` (43_bit_deserializer.md rule R162): 1 iff the width in ns is more than the threshold. -/
def classify (p : Params) (k : Nat) : Bool := decide (p.threshNs < k * p.tickNs)

/-- Shift and accumulate, `((sr << 1) | b) mod 2^40` (rule R163). -/
def shiftIn (sr : BitVec 40) (b : Bool) : BitVec 40 := (sr <<< 1) ||| (BitVec.ofBool b).setWidth 40

/-- `Checksum(b0, b1, b2, b3)` (44_frame_checksum.md rule R182): the 8-bit sum is the sum mod 256. -/
def checksum (b0 b1 b2 b3 : Byte) : Byte := b0 + b1 + b2 + b3

/-- The frame's validity: `checksum == (byte0+byte1+byte2+byte3) mod 256` (rule R180). -/
def frameValid (v : BitVec 40) : Bool :=
  checksum (frameByte v 0) (frameByte v 1) (frameByte v 2) (frameByte v 3) == frameByte v 4

/-- DATA0 of a frame: byte `i` in lane `i` (20_memory.md rule R54). -/
def frameData0 (v : BitVec 40) : Word := frameByte v 3 ++ frameByte v 2 ++ frameByte v 1 ++ frameByte v 0

/-- `FrameEnd(v)` (44_frame_checksum.md rule R183): release, then the check, then the completion. -/
def Block.frameEnd (v : BitVec 40) (b : Block) : Block :=
  let b := b.release
  if frameValid v then
    { b with data0 := frameData0 v, data1 := frameByte v 4 }.complete .ok
  else b.complete .cksumMismatch

/-! ### The start of an acquisition -/

/-- The effect of an accepted START (45_host_interface.md rule R200, the branch `busy == 0`). -/
def Block.start (p : Params) (b : Block) : Block :=
  { b with
    busy := true, done := false, result := .none
    ackStage := .none, failByte := 0#3, failBit := 0#3, failWait := false
    data0 := 0#32, data1 := 0#8
    sr := 0#40, nbit := 0#6
    phase := .startLow1, cnt := counterOf p.tLow1
    lineOe := true, lineOut := false }

/-- A START is accepted when the block is not busy (rule R200) and has no effect otherwise (rule R201). -/
def Block.acquire (p : Params) (b : Block) : Block := if b.busy then b else b.start p

/-- `RegWrite(off, v)` (00_scope.md rule R10): the only write that acts is one of CTRL with bit 0 set
(20_memory.md rule R57). -/
def regWrite (p : Params) (off : BitVec 5) (v : Word) (b : Block) : Block :=
  match regOf off with
  | .ctrl => if startBit v then b.acquire p else b
  | .status => b
  | .data0 => b
  | .data1 => b
  | .unmapped => b

/-! ### On the whole state -/

/-- A step of the block alone. -/
def State.onBlock (f : Block → Block) (s : State) : State := { s with blk := f s.blk }

/-- A tick that samples the line once and uses the level (40_edge_wait.md rule R101: "exactly one sample per tick"). -/
def State.onSample (f : Level → Block → Block) (s : State) : State := s.takeSample.onBlock (f s.sample)

/-- A host read returns the word `q` (30_encoding.md rule R70). -/
def State.respond (q : Word) (s : State) : State := { s with reads := q :: s.reads }

/-- The reset event on the block (70_reset_and_hazards.md rule R250). -/
def State.applyReset (s : State) : State := s.onBlock fun _ => Block.reset

end Sys2Proof.Machine
end

