-- ==== Sys2Proof/Machine/AckHandshake.lean ====
section
/-! DEFINITION. The three stages of the ACK handshake (42_ack_handshake.md rules R140 to R144). -/

namespace Sys2Proof.Machine

/-- ACK_WAIT_LOW, stage 1 (rule R140): wait while the line is high. -/
def execAckWaitLow (s : State) : Host.Outcome State Fault Refusal :=
  .next (s.onSample (waitTick true
    (fun _ => Block.enterWait s.params .ackWaitHigh)
    (Block.ackFail s.params .awaitingAckLow)))

/-- ACK_WAIT_HIGH, stage 2 (rule R141): wait while the line is low. -/
def execAckWaitHigh (s : State) : Host.Outcome State Fault Refusal :=
  .next (s.onSample (waitTick false
    (fun _ => Block.enterWait s.params .ackWaitRelease)
    (Block.ackFail s.params .awaitingAckHigh)))

/-- ACK_WAIT_RELEASE, stage 3 (rule R142): wait while the line is high; its end begins bit 0's guard. -/
def execAckWaitRelease (s : State) : Host.Outcome State Fault Refusal :=
  .next (s.onSample (waitTick true
    (fun _ => Block.enterWait s.params .bitWaitGuard)
    (Block.ackFail s.params .awaitingBusRelease)))

end Sys2Proof.Machine
end

