-- ==== Sys2Proof/Machine/BitDeserializer.lean ====
section
/-! DEFINITION. The two phases of a data bit (43_bit_deserializer.md rules R160 and R161). -/

namespace Sys2Proof.Machine

/-- BIT_WAIT_GUARD (rule R160): wait while the line is low. -/
def execBitWaitGuard (s : State) : Host.Outcome State Fault Refusal :=
  .next (s.onSample (waitTick false
    (fun _ => Block.enterWait s.params .bitMeasureHigh)
    (Block.byteFail false)))

/-- The success action of BIT_MEASURE_HIGH (rule R161), `c` the counter at the edge: measure, classify and shift; the
frame ends with bit 39, and every other bit is followed by the next one's guard. -/
def Block.bitEdge (p : Params) (c : BitVec 16) (b : Block) : Block :=
  let sr' := shiftIn b.sr (classify p (width p c))
  let b' := { b with sr := sr' }
  if b.nbit = 39#6 then b'.frameEnd sr'
  else { b' with nbit := b.nbit + 1#6 }.enterWait p .bitWaitGuard

/-- BIT_MEASURE_HIGH (rule R161): wait while the line is high and measure how long it was. -/
def execBitMeasureHigh (s : State) : Host.Outcome State Fault Refusal :=
  .next (s.onSample (waitTick true (Block.bitEdge s.params) (Block.byteFail true)))

end Sys2Proof.Machine
end

