-- ==== Sys2Proof/Machine/HostTransactions.lean ====
section
/-! DEFINITION. The eleven host transactions (45_host_interface.md rules R200 to R207). No host access faults
(20_memory.md rule R67), so each ends in a next state. -/

namespace Sys2Proof.Machine

/-- ACQUIRE (rules R200 and R201). -/
def execAcquire (_a : BitVec 5) (_d : Word) (s : State) : Host.Outcome State Fault Refusal :=
  .next (s.onBlock (Block.acquire s.params))

/-- WR_CTRL_NOP (rule R202): no state changes. -/
def execWrCtrlNop (_a : BitVec 5) (_d : Word) (s : State) : Host.Outcome State Fault Refusal := .next s

/-- WR_STATUS (rule R206): no state changes. -/
def execWrStatus (_a : BitVec 5) (_d : Word) (s : State) : Host.Outcome State Fault Refusal := .next s

/-- WR_DATA0 (rule R206): no state changes. -/
def execWrData0 (_a : BitVec 5) (_d : Word) (s : State) : Host.Outcome State Fault Refusal := .next s

/-- WR_DATA1 (rule R206): no state changes. -/
def execWrData1 (_a : BitVec 5) (_d : Word) (s : State) : Host.Outcome State Fault Refusal := .next s

/-- WR_UNMAPPED (rule R206): no state changes. -/
def execWrUnmapped (_a : BitVec 5) (_d : Word) (s : State) : Host.Outcome State Fault Refusal := .next s

/-- RD_CTRL (rule R203): `Q = 0`. -/
def execRdCtrl (_a : BitVec 5) (_d : Word) (s : State) : Host.Outcome State Fault Refusal :=
  .next (s.respond (readReg .ctrl s.blk))

/-- RD_STATUS (rule R204): `Q = STATUS`. -/
def execRdStatus (_a : BitVec 5) (_d : Word) (s : State) : Host.Outcome State Fault Refusal :=
  .next (s.respond (readReg .status s.blk))

/-- RD_DATA0 (rule R205): `Q = data0`. -/
def execRdData0 (_a : BitVec 5) (_d : Word) (s : State) : Host.Outcome State Fault Refusal :=
  .next (s.respond (readReg .data0 s.blk))

/-- RD_DATA1 (rule R205): `Q = zext_32(data1)`. -/
def execRdData1 (_a : BitVec 5) (_d : Word) (s : State) : Host.Outcome State Fault Refusal :=
  .next (s.respond (readReg .data1 s.blk))

/-- RD_UNMAPPED (rule R207): `Q = 0`. -/
def execRdUnmapped (_a : BitVec 5) (_d : Word) (s : State) : Host.Outcome State Fault Refusal :=
  .next (s.respond (readReg .unmapped s.blk))

end Sys2Proof.Machine
end

