-- ==== Sys2Proof/Machine/StartSequence.lean ====
section
/-! DEFINITION. The ticks of IDLE (45_host_interface.md rule R210) and of the start sequence (41_start_sequence.md
rules R120 to R122). None of them samples the line (10_state.md rule R26). -/

namespace Sys2Proof.Machine

/-- IDLE (45_host_interface.md rule R210): no state changes, no sample. -/
def execIdle (s : State) : Host.Outcome State Fault Refusal := .next s

/-- START_LOW1 (rule R120): the line stays driven low. -/
def execStartLow1 (s : State) : Host.Outcome State Fault Refusal :=
  .next (s.onBlock (delayTick (Block.enterDelay .startLow2 s.params.tLow2)))

/-- START_LOW2 (rule R121): at its end the ready pulse begins, driven high. -/
def execStartLow2 (s : State) : Host.Outcome State Fault Refusal :=
  .next (s.onBlock (delayTick fun b => (b.enterDelay .startReady s.params.tReady).drive true true))

/-- START_READY (rule R122): at its end input mode, `line_out` kept, and the first ACK wait. -/
def execStartReady (s : State) : Host.Outcome State Fault Refusal :=
  .next (s.onBlock (delayTick fun b => (b.drive false b.lineOut).enterWait s.params .ackWaitLow))

end Sys2Proof.Machine
end

