-- ==== Sys2Proof/Machine/Dispatch.lean ====
section
/-! DEFINITION. One arm per row of spec/opcode_table.json. -/

namespace Sys2Proof.Machine

def exec (i : Instr) (s : State) : Host.Outcome State Fault Refusal :=
  match i with
  | .acquire a d => Sys2Proof.Machine.execAcquire a d s
  | .wrCtrlNop a d => Sys2Proof.Machine.execWrCtrlNop a d s
  | .wrStatus a d => Sys2Proof.Machine.execWrStatus a d s
  | .wrData0 a d => Sys2Proof.Machine.execWrData0 a d s
  | .wrData1 a d => Sys2Proof.Machine.execWrData1 a d s
  | .wrUnmapped a d => Sys2Proof.Machine.execWrUnmapped a d s
  | .rdCtrl a d => Sys2Proof.Machine.execRdCtrl a d s
  | .rdStatus a d => Sys2Proof.Machine.execRdStatus a d s
  | .rdData0 a d => Sys2Proof.Machine.execRdData0 a d s
  | .rdData1 a d => Sys2Proof.Machine.execRdData1 a d s
  | .rdUnmapped a d => Sys2Proof.Machine.execRdUnmapped a d s
  | .idle => Sys2Proof.Machine.execIdle s
  | .startLow1 => Sys2Proof.Machine.execStartLow1 s
  | .startLow2 => Sys2Proof.Machine.execStartLow2 s
  | .startReady => Sys2Proof.Machine.execStartReady s
  | .ackWaitLow => Sys2Proof.Machine.execAckWaitLow s
  | .ackWaitHigh => Sys2Proof.Machine.execAckWaitHigh s
  | .ackWaitRelease => Sys2Proof.Machine.execAckWaitRelease s
  | .bitWaitGuard => Sys2Proof.Machine.execBitWaitGuard s
  | .bitMeasureHigh => Sys2Proof.Machine.execBitMeasureHigh s

end Sys2Proof.Machine
end

