-- ==== Sys2Proof/Machine/Events.lean ====
section
/-! DEFINITION. Which agent moves next (00_scope.md rule R5), read from the environment's schedule. Every access,
tick and reset is one event, and all events form one total order (20_memory.md rules R60 and R61). -/

namespace Sys2Proof.Machine

/-- A cycle that holds the engine's tick and nothing else. -/
def ClockCycle.plainTick : ClockCycle where
  reset := false
  access := none
  tick := true

/-- A cycle that holds one host access and nothing else. -/
def ClockCycle.plainAccess (w : BitVec 38) : ClockCycle where
  reset := false
  access := some w
  tick := false

/-- A cycle in which reset is applied. -/
def ClockCycle.plainReset : ClockCycle where
  reset := true
  access := none
  tick := false

/-- One event. `quiet` is a clock cycle in which nothing falls. -/
inductive Event where
  | reset
  | access (w : BitVec 38)
  | tick
  | quiet
  deriving DecidableEq, Repr

/-- The next event: reset overrides every other event of its cycle (70_reset_and_hazards.md rule R250), and a host
access of a cycle comes before its tick (20_memory.md rule R60). Past the schedule the engine ticks on: "exactly one
step per tick, on every tick" (00_scope.md rule R5). -/
def State.nextEvent (s : State) : Event :=
  match s.inputs with
  | [] => .tick
  | c :: _ =>
    if c.reset then .reset
    else match c.access with
      | some w => .access w
      | none => if c.tick then .tick else .quiet

/-- The schedule once that event has been taken: reset takes its whole cycle with it, and an access leaves the cycle's
tick, if there is one, for the next step. -/
def State.afterEvent (s : State) : State :=
  match s.inputs with
  | [] => s
  | c :: cs =>
    if c.reset then { s with inputs := cs }
    else match c.access with
      | some _ => if c.tick then { s with inputs := ClockCycle.plainTick :: cs } else { s with inputs := cs }
      | none => { s with inputs := cs }

/-- What the next event gives the machine to decode: a host access its transaction word, a tick the code of the phase
the engine is in (30_encoding.md rules R70 and R71). Reset and a quiet cycle are no instruction. -/
def State.fetch (s : State) : Option Code :=
  match s.nextEvent with
  | .access w => some (.ht w)
  | .tick => some (.ph s.blk.phase.code)
  | .reset => none
  | .quiet => none

/-- The event that is no instruction: reset acts on the block (rule R250), a quiet cycle on nothing. -/
def State.otherEvent (s : State) : State :=
  match s.nextEvent with
  | .reset => s.applyReset
  | .access _ => s
  | .tick => s
  | .quiet => s

/-- Placing a word of the opcode table's format so that the next step decodes it: a transaction as the access of a
cycle of its own in front of the schedule, a phase code as the engine's phase with a tick in front. A word of
neither format, and a reserved phase code, which `Phase` cannot hold, place nothing. -/
def State.placeCode (s : State) : Option Code → State
  | some (.ht w) => { s with inputs := ClockCycle.plainAccess w :: s.inputs }
  | some (.ph c) =>
    match Phase.ofCode c with
    | some ph => { s with blk := { s.blk with phase := ph }, inputs := ClockCycle.plainTick :: s.inputs }
    | none => s
  | none => s

end Sys2Proof.Machine
end

