-- ==== Sys2Proof/Machine/Step.lean ====
section
/-! DEFINITION. One step of the machine: the next event of the schedule (20_memory.md rule R61). A host access and a
tick run the instruction they decode to; a reset and a quiet cycle are no instruction. -/

namespace Sys2Proof.Machine

/-- The decoded instruction, run. -/
def runDecoded (d : Except DecodeError Instr) (s : State) : Host.Outcome State Fault Refusal :=
  match d with
  | .ok i => exec i s
  | .error _ => .fault .reservedEncoding

/-- One step. An illegal instance is refused (00_scope.md rule R7). -/
def step (s : State) : Host.Outcome State Fault Refusal :=
  if s.params.Legal then
    match s.fetch with
    | some c => runDecoded (decode c) s.afterEvent
    | none => .next s.otherEvent.afterEvent
  else .refused .illegalInstance

/-- `s` with an instruction of the opcode table placed where the next step fetches it (log 6). -/
def State.withFetchWord (s : State) (nbits w : Nat) : State := s.placeCode (tableCode nbits w)

end Sys2Proof.Machine
end

