-- ==== Sys2Proof/Machine/Run.lean ====
section
/-! DEFINITION. Runs of the machine. -/

namespace Sys2Proof.Machine

/-- `n` steps, stopping at the first fault or refusal (the host's `Host.Core.run` for this machine:
`Laws/Step.lean`, `run_eq_core_run`). -/
def run : Nat → State → Host.Outcome State Fault Refusal
  | 0, s => .next s
  | n + 1, s =>
    match step s with
    | .next t => run n t
    | .fault r => .fault r
    | .refused r => .refused r

end Sys2Proof.Machine
end

