-- ==== Sys2Proof/Machine/HostProgram.lean ====
section
/-! DEFINITION. The host's side: the assembly of 30_encoding.md rule R77, the pseudo-instructions of rule R78 and the
stimulus notation of rule R79. Host-side control is the host program's own ("not an SWPE operation"): it is written
here over `step`, and no step of the machine reads it. -/

namespace Sys2Proof.Machine

/-! ### Assembly (rule R77) -/

/-- `<reg>`: a register by name or a raw 5-bit offset. -/
inductive HostReg where
  | ctrl | status | data0 | data1
  | raw (offset : BitVec 5)
  deriving DecidableEq, Repr

/-- `offset(<reg>)`. -/
def HostReg.offset : HostReg → BitVec 5
  | .ctrl => 0x00#5
  | .status => 0x04#5
  | .data0 => 0x08#5
  | .data1 => 0x0C#5
  | .raw o => o

/-- `WR <reg>, <imm>`. -/
def wr (r : HostReg) (imm : Word) : BitVec 38 := htWord true r.offset imm

/-- `RD <reg>`, in its canonical encoding with `D = 0`. -/
def rd (r : HostReg) : BitVec 38 := htWord false r.offset 0#32

/-! ### Pseudo-instructions (rule R78) -/

/-- The host makes one access: it is the next event, in a cycle of its own (log 16, DESIGN CHOICE). -/
def hostAccess (w : BitVec 38) (s : State) : Host.Outcome State Fault Refusal :=
  step { s with inputs := ClockCycle.plainAccess w :: s.inputs }

/-- `ACQUIRE`, that is `WR CTRL, 1`. -/
def acquireWord : BitVec 38 := wr .ctrl 1#32

/-- `RD <reg>` after `gap` further steps of the machine: the word read, and the state. The spec does not say how much
passes before a host's access, so `gap` is given (log 16, DESIGN CHOICE). -/
def hostRead (gap : Nat) (r : HostReg) (s : State) : Option (Word × State) :=
  match run gap s with
  | .next s1 =>
    match hostAccess (rd r) s1 with
    | .next s2 =>
      match s2.reads with
      | q :: _ => some (q, s2)
      | [] => none
    | .fault _ => none
    | .refused _ => none
  | .fault _ => none
  | .refused _ => none

/-- `POLL <reg>, <mask>, <val>`: read until `(Q & <mask>) == <val>`. The gap before each read is given (log 16, DESIGN
CHOICE). The answer is the state after the read that satisfied the test, and none if no read did. -/
def poll (r : HostReg) (mask val : Word) : List Nat → State → Option State
  | [], _ => none
  | gap :: gaps, s =>
    match hostRead gap r s with
    | some (q, s1) => if q &&& mask == val then some s1 else poll r mask val gaps s1
    | none => none

/-- `WAIT_DONE`: poll STATUS until BUSY = 0 and DONE = 1. -/
def waitDone (gaps : List Nat) (s : State) : Option State := poll .status 3#32 2#32 gaps s

/-- The source's `Result<[u8; 5], AcquisitionError>` (45_host_interface.md rule R208). -/
inductive ReadResult where
  | ok (b0 b1 b2 b3 b4 : Byte)
  | ackFailure
  | byteFailure (byte bit : BitVec 3)
  | checksumMismatch
  deriving DecidableEq, Repr

/-- The result of `READ_FRAME`, "a pure function of the STATUS, DATA0 and DATA1 words read" (rules R78 and R208). For
RESULT = 0 and the reserved codes the rules name none, and the model gives none (log 16, DESIGN CHOICE). -/
def readResult (status data0 data1 : Word) : Option ReadResult :=
  match (status.extractLsb' 2 3).toNat with
  | 1 => some (.ok (data0.extractLsb' 0 8) (data0.extractLsb' 8 8) (data0.extractLsb' 16 8)
      (data0.extractLsb' 24 8) (data1.extractLsb' 0 8))
  | 2 => some .ackFailure
  | 3 => some (.byteFailure (status.extractLsb' 12 3) (status.extractLsb' 16 3))
  | 4 => some .checksumMismatch
  | _ => none

/-- The three reads that end `READ_FRAME`, and its result. The spec does not say how much passes after `WAIT_DONE` and
between the reads, so the gap before each of them is given (log 16, DESIGN CHOICE). -/
def readOutcome (g0 g1 g2 : Nat) (s : State) : Option (Option ReadResult × State) :=
  match hostRead g0 .status s with
  | some (q0, s1) =>
    match hostRead g1 .data0 s1 with
    | some (q1, s2) =>
      match hostRead g2 .data1 s2 with
      | some (q2, s3) => some (readResult q0 q1 q2, s3)
      | none => none
    | none => none
  | none => none

/-- `READ_FRAME`: `ACQUIRE; WAIT_DONE; RD STATUS; RD DATA0; RD DATA1`, with its result and the state it leaves. `polls` are
the gaps before the polls of `WAIT_DONE`, and `g0`, `g1`, `g2` those before the three reads (log 16, DESIGN
CHOICE). -/
def readFrame (polls : List Nat) (g0 g1 g2 : Nat) (s : State) : Option (Option ReadResult × State) :=
  match hostAccess acquireWord s with
  | .next s1 =>
    match waitDone polls s1 with
    | some s2 => readOutcome g0 g1 g2 s2
    | none => none
  | .fault _ => none
  | .refused _ => none

/-! ### Stimuli (rule R79) -/

/-- `H n`: the next `n` samples are 1. -/
def high (n : Nat) : List Level := List.replicate n true

/-- `L n`: the next `n` samples are 0. -/
def low (n : Nat) : List Level := List.replicate n false

/-- The samples of a run of data bits, each a guard low of `g` samples and a high of `h`. -/
def bitWave : List (Nat × Nat) → List Level
  | [] => []
  | (g, h) :: bits => low g ++ high h ++ bitWave bits

/-- The sensor shows a stimulus: the list, and 1 once it is used up. -/
def State.withStimulus (ls : List Level) (s : State) : State := { s with line := ls, pulledUp := true }

/-- A whole acquisition on the line: `n` high samples before the ACK low, the ACK low and high of `l` and `h` samples,
and the data bits. -/
def wave (n l h : Nat) (bits : List (Nat × Nat)) : List Level := high n ++ low l ++ high h ++ bitWave bits

end Sys2Proof.Machine
end

