-- ==== Sys2Proof/Safety.lean ====
section
/-! DEFINITION. The invariants of 10_state.md rule R39, what a safe state and a safe step are, and the words in which
statements count the ticks of a schedule. -/

namespace Sys2Proof.Machine

/-! ### The eight items of rule R39 -/

/-- Item 1: `busy = 1` exactly when `phase != IDLE`. -/
abbrev BusyIffNotIdle (b : Block) : Prop := b.busy = true ↔ b.phase ≠ .idle
/-- Item 2: `done = 1` implies `busy = 0`. -/
abbrev DoneNotBusy (b : Block) : Prop := b.done = true → b.busy = false
/-- Item 3: `done = 1` exactly when `result != NONE`. -/
abbrev DoneIffResult (b : Block) : Prop := b.done = true ↔ b.result ≠ .none
/-- Item 4: `result != OK` implies `data0 = 0` and `data1 = 0`. -/
abbrev NoPartialFrame (b : Block) : Prop := b.result ≠ .ok → b.data0 = 0#32 ∧ b.data1 = 0#8
/-- Item 5: `result = OK` implies that the four bytes of `data0` sum to `data1` mod 256. -/
abbrev ChecksumHolds (b : Block) : Prop :=
  b.result = .ok →
    ((b.data0.extractLsb' 0 8).toNat + (b.data0.extractLsb' 8 8).toNat + (b.data0.extractLsb' 16 8).toNat +
      (b.data0.extractLsb' 24 8).toNat) % 256 = b.data1.toNat
/-- Item 6: `ack_stage != 0` exactly when `result = ACK_FAIL`. -/
abbrev AckStageIffAckFail (b : Block) : Prop := b.ackStage ≠ .none ↔ b.result = .ackFail
/-- Item 7: `result != BYTE_FAIL` implies `fail_byte = fail_bit = fail_wait = 0`. -/
abbrev FailFieldsOfByteFail (b : Block) : Prop :=
  b.result ≠ .byteFail → b.failByte = 0#3 ∧ b.failBit = 0#3 ∧ b.failWait = false
/-- Item 8: while `busy = 1`, `nbit <= 39`, `phase` is in 1..8, and `line_oe = 0` exactly when `phase` is in 4..8. -/
abbrev BusyRanges (b : Block) : Prop :=
  b.busy = true →
    b.nbit.toNat ≤ 39 ∧ (1 ≤ b.phase.code.toNat ∧ b.phase.code.toNat ≤ 8) ∧
    (b.lineOe = false ↔ 4 ≤ b.phase.code.toNat ∧ b.phase.code.toNat ≤ 8)

/-- Rule R39, all eight items. -/
abbrev RuleR39 (b : Block) : Prop :=
  BusyIffNotIdle b ∧ DoneNotBusy b ∧ DoneIffResult b ∧ NoPartialFrame b ∧ ChecksumHolds b ∧
  AckStageIffAckFail b ∧ FailFieldsOfByteFail b ∧ BusyRanges b

/-! ### Further invariants -/

/-- The value a phase's counter starts from: the length of a delay, the budget of a wait (10_state.md rule R22). -/
def Phase.load (p : Params) : Phase → Nat
  | .idle => 0
  | .startLow1 => p.tLow1
  | .startLow2 => p.tLow2
  | .startReady => p.tReady
  | .ackWaitLow => p.budget
  | .ackWaitHigh => p.budget
  | .ackWaitRelease => p.budget
  | .bitWaitGuard => p.budget
  | .bitMeasureHigh => p.budget

/-- The counter of a busy block is between 1 and the value its phase started from (10_state.md rule R42: "never
wraps"; "`cnt` is in 1..`P_BUDGET`"). -/
abbrev CounterInRange (p : Params) (b : Block) : Prop :=
  b.phase ≠ .idle → 1 ≤ b.cnt.toNat ∧ b.cnt.toNat ≤ b.phase.load p

/-- What the engine does with the line in each phase of an acquisition (41_start_sequence.md rules R120 to R123): low in
both low stages, high in the ready pulse, input mode with `line_out = 1` afterwards. -/
abbrev LineFollowsPhase (b : Block) : Prop :=
  (b.phase = .startLow1 ∨ b.phase = .startLow2 → b.lineOe = true ∧ b.lineOut = false) ∧
  (b.phase = .startReady → b.lineOe = true ∧ b.lineOut = true) ∧
  (b.phase.isWait = true → b.lineOe = false ∧ b.lineOut = true)

/-- A failed byte's position is a position of the frame (10_state.md rule R34: `fail_byte` is in 0..4). -/
abbrev FailByteInFrame (b : Block) : Prop := b.failByte.toNat ≤ 4

/-- A state a run can be in: a legal instance whose block meets rule R39, with its counter, its line and its recorded
position in their ranges. -/
abbrev State.Safe (s : State) : Prop :=
  s.params.Legal ∧ RuleR39 s.blk ∧ CounterInRange s.params s.blk ∧ LineFollowsPhase s.blk ∧ FailByteInFrame s.blk

/-- A safe step: the machine goes on, to a safe state. -/
abbrev SafeStep (s : State) : Prop :=
  ∃ t, step s = .next t ∧ t.Safe

/-! ### Schedules -/

/-- The ticks a schedule holds that no reset of its cycle overrides. -/
def ticksIn : List ClockCycle → Nat
  | [] => 0
  | c :: cs => (if c.tick && !c.reset then 1 else 0) + ticksIn cs

/-- The steps a schedule takes: one per event, and one for a quiet cycle. -/
def stepsIn : List ClockCycle → Nat
  | [] => 0
  | c :: cs => (if !c.reset && c.access.isSome && c.tick then 2 else 1) + stepsIn cs

/-- A schedule in which no reset is applied. -/
abbrev NoReset (cs : List ClockCycle) : Prop := ∀ c ∈ cs, c.reset = false

/-- A schedule of `n` ticks and nothing else. -/
def plainTicks (n : Nat) : List ClockCycle := List.replicate n ClockCycle.plainTick

end Sys2Proof.Machine
end

