-- ==== Sys2Proof/Certificates/Slice0/Obligations.lean ====
section
/-! DEFINITION. The statements for the provers. Each docstring names the rules of spec/ it formalises. `run n` is
the machine's own step taken `n` times (`Machine/Run.lean`). -/

open Sys2Proof Sys2Proof.Machine

/-! ### Encoding -/

/-- Words written out from 30_encoding.md rules R70, R73 and R74 (most of them the words of 95_test_vectors.md
V-L2-25) decode to the rows the spec gives them. -/
def Obligations.WrittenWordsDecode : Prop :=
  decode (.ht 0x2000000001#38) = .ok (.acquire 0x00#5 0x00000001#32) ∧
  decode (.ht 0x2300000001#38) = .ok (.acquire 0x03#5 0x00000001#32) ∧
  decode (.ht 0x20FFFFFFFE#38) = .ok (.wrCtrlNop 0x00#5 0xFFFFFFFE#32) ∧
  decode (.ht 0x2400000001#38) = .ok (.wrStatus 0x04#5 0x00000001#32) ∧
  decode (.ht 0x2812345678#38) = .ok (.wrData0 0x08#5 0x12345678#32) ∧
  decode (.ht 0x2CFFFFFFFF#38) = .ok (.wrData1 0x0C#5 0xFFFFFFFF#32) ∧
  decode (.ht 0x3C00000001#38) = .ok (.wrUnmapped 0x1C#5 0x00000001#32) ∧
  decode (.ht 0x0000000000#38) = .ok (.rdCtrl 0x00#5 0x00000000#32) ∧
  decode (.ht 0x0500000000#38) = .ok (.rdStatus 0x05#5 0x00000000#32) ∧
  decode (.ht 0x0800000000#38) = .ok (.rdData0 0x08#5 0x00000000#32) ∧
  decode (.ht 0x0FFFFFFFFF#38) = .ok (.rdData1 0x0F#5 0xFFFFFFFF#32) ∧
  decode (.ht 0x1400000000#38) = .ok (.rdUnmapped 0x14#5 0x00000000#32) ∧
  decode (.ph 0x0#4) = .ok .idle ∧
  decode (.ph 0x3#4) = .ok .startReady ∧
  decode (.ph 0x6#4) = .ok .ackWaitRelease ∧
  decode (.ph 0x8#4) = .ok .bitMeasureHigh ∧
  decode (.ph 0x9#4) = .error (.reservedPhase 0x9#4)

/-- Decoding the word of a well-formed instruction gives it back, with every operand at every value (rules R70, R71,
R73 and R74). -/
def Obligations.DecodeOfEncode : Prop :=
  ∀ i : Instr, i.WellFormed = true → decode (encode i) = .ok i

/-- What the decoder reads is a well-formed instruction whose word is the word it read: no bit is dropped. -/
def Obligations.EncodeOfDecode : Prop :=
  ∀ (c : Code) (i : Instr), decode c = .ok i → i.WellFormed = true ∧ encode i = c

/-- Rules R73 and R76: every transaction word is decoded, to the one row whose `(word & mask) == match`; a phase code
0..8 to the one row that matches it, and 9..15 to "reserved", which no phase's code is. -/
def Obligations.DecoderFindsTheUniqueRow : Prop :=
  (∀ w : BitVec 38, decode (.ht w) = .ok (decodeHT w) ∧
    ∀ i : Instr, (rowOf i).Matches (.ht w) = true ↔ rowOf i = rowOf (decodeHT w)) ∧
  (∀ c : BitVec 4, c.toNat ≤ 8 →
    ∃ i, decode (.ph c) = .ok i ∧ ∀ j : Instr, (rowOf j).Matches (.ph c) = true ↔ rowOf j = rowOf i) ∧
  (∀ c : BitVec 4, 9 ≤ c.toNat → decode (.ph c) = .error (.reservedPhase c)) ∧
  (∀ ph : Phase, ∃ i, decode (.ph ph.code) = .ok i)

/-- Rule R51: the register is selected by `addr[4:2]`, and an access with `addr[1:0] != 0` does what the access with
those bits cleared does. -/
def Obligations.LowAddressBitsAreIgnored : Prop :=
  (∀ a : BitVec 5, regOf a =
    if (a.extractLsb' 2 3).toNat = 0 then .ctrl else if (a.extractLsb' 2 3).toNat = 1 then .status
    else if (a.extractLsb' 2 3).toNat = 2 then .data0 else if (a.extractLsb' 2 3).toNat = 3 then .data1
    else .unmapped) ∧
  ∀ (w : Bool) (a : BitVec 5) (d : Word) (s : State),
    exec (decodeHT (htWord w a d)) s = exec (decodeHT (htWord w (a &&& 0x1C#5) d)) s

/-- Rule R77: the host assembly's words. -/
def Obligations.AssemblyEncodes : Prop :=
  (∀ imm : Word,
    decodeHT (wr .ctrl imm) = (if imm.getLsbD 0 then .acquire 0x00#5 imm else .wrCtrlNop 0x00#5 imm) ∧
    decodeHT (wr .status imm) = .wrStatus 0x04#5 imm ∧
    decodeHT (wr .data0 imm) = .wrData0 0x08#5 imm ∧
    decodeHT (wr .data1 imm) = .wrData1 0x0C#5 imm) ∧
  decodeHT (rd .ctrl) = .rdCtrl 0x00#5 0#32 ∧
  decodeHT (rd .status) = .rdStatus 0x04#5 0#32 ∧
  decodeHT (rd .data0) = .rdData0 0x08#5 0#32 ∧
  decodeHT (rd .data1) = .rdData1 0x0C#5 0#32 ∧
  (∀ (o : BitVec 5) (imm : Word),
    htW (wr (.raw o) imm) = true ∧ htA (wr (.raw o) imm) = o ∧ htD (wr (.raw o) imm) = imm) ∧
  (∀ o : BitVec 5, htW (rd (.raw o)) = false ∧ htA (rd (.raw o)) = o ∧ htD (rd (.raw o)) = 0#32)

/-! ### The step -/

/-- A step runs the decoded instruction (rules R5, R60 and R61): the access of the first cycle, the tick of that cycle
once its access is gone, and a tick when the schedule is empty (the last is the model's choice, log 2). Around `exec`
a step does one thing, it takes the event off the schedule; a cycle with no event is taken off and nothing else. -/
def Obligations.StepRunsTheDecodedInstruction : Prop :=
  ∀ s : State, s.params.Legal →
    (∀ (c : ClockCycle) (cs : List ClockCycle) (w : BitVec 38) (i : Instr),
      s.inputs = c :: cs → c.reset = false → c.access = some w → decode (.ht w) = .ok i →
      step s = exec i { s with
        inputs := if c.tick then { reset := false, access := none, tick := true } :: cs else cs }) ∧
    (∀ (c : ClockCycle) (cs : List ClockCycle) (i : Instr),
      s.inputs = c :: cs → c.reset = false → c.access = none → c.tick = true →
      decode (.ph s.blk.phase.code) = .ok i → step s = exec i { s with inputs := cs }) ∧
    (∀ i : Instr, s.inputs = [] → decode (.ph s.blk.phase.code) = .ok i → step s = exec i s) ∧
    (∀ (c : ClockCycle) (cs : List ClockCycle),
      s.inputs = c :: cs → c.reset = false → c.access = none → c.tick = false →
      step s = .next { s with inputs := cs })

/-- Rule R60: of a host access and a tick in one cycle the access takes effect first, and the tick sees the state it
left, its phase included. -/
def Obligations.HostAccessPrecedesTheTick : Prop :=
  ∀ (s t : State) (w : BitVec 38) (cs : List ClockCycle) (i : Instr), s.params.Legal →
    s.inputs = { reset := false, access := some w, tick := true } :: cs →
    exec (decodeHT w) { s with inputs := { reset := false, access := none, tick := true } :: cs } = .next t →
    decode (.ph t.blk.phase.code) = .ok i →
    run 2 s = exec i { t with inputs := cs }

/-- Rules R250 and R41: reset sets every field of the block at once, whatever else its cycle holds and whatever the
block was doing; STATUS then reads 0x20000000 and the other registers 0. -/
def Obligations.ResetSetsEveryField : Prop :=
  let b : Block :=
    { phase := .idle, cnt := 0#16, sr := 0#40, nbit := 0#6, lineOe := false, lineOut := true, busy := false
      done := false, result := .none, ackStage := .none, failByte := 0#3, failBit := 0#3, failWait := false
      data0 := 0#32, data1 := 0#8 }
  (∀ (s : State) (c : ClockCycle) (cs : List ClockCycle), s.params.Legal → s.inputs = c :: cs → c.reset = true →
    step s = .next { s with blk := b, inputs := cs }) ∧
  State.reset.blk = b ∧ readReg .status b = 0x20000000#32 ∧
  readReg .ctrl b = 0#32 ∧ readReg .data0 b = 0#32 ∧ readReg .data1 b = 0#32

/-- Rule R7: a step of an instance that breaks a constraint is refused, and of no other. -/
def Obligations.IllegalInstanceRefused : Prop :=
  ∀ s : State,
    ((1 ≤ s.params.tickNs ∧ 1 ≤ s.params.budget ∧ s.params.budget ≤ 65535 ∧
      1 ≤ s.params.tLow1 ∧ s.params.tLow1 ≤ 65535 ∧ 1 ≤ s.params.tLow2 ∧ s.params.tLow2 ≤ 65535 ∧
      s.params.tMinLow ≤ s.params.tLow1 + s.params.tLow2 ∧
      1 ≤ s.params.tReady ∧ s.params.tReady ≤ 65535) →
      step s ≠ .refused .illegalInstance) ∧
    (¬ (1 ≤ s.params.tickNs ∧ 1 ≤ s.params.budget ∧ s.params.budget ≤ 65535 ∧
      1 ≤ s.params.tLow1 ∧ s.params.tLow1 ≤ 65535 ∧ 1 ≤ s.params.tLow2 ∧ s.params.tLow2 ≤ 65535 ∧
      s.params.tMinLow ≤ s.params.tLow1 + s.params.tLow2 ∧
      1 ≤ s.params.tReady ∧ s.params.tReady ≤ 65535) →
      step s = .refused .illegalInstance)

/-- No access errors and no tick traps (rules R67, R220 and R225): every step of a legal instance goes on, from every
state, and leaves the parameters alone. -/
def Obligations.EveryStepGoesOn : Prop :=
  ∀ s : State, s.params.Legal → ∃ t, step s = .next t ∧ t.params = s.params

/-- A word of the opcode table placed with `withFetchWord` is the next instruction that runs (the model's own
convention, log 6). -/
def Obligations.PlacedWordRunsNext : Prop :=
  ∀ (s : State) (nbits w : Nat), s.params.Legal →
    (∀ i, 8 < nbits → w < 2 ^ 38 → decodeTableWord nbits w = some i →
      step (s.withFetchWord nbits w) = exec i s) ∧
    (∀ i ph, nbits ≤ 8 → decodeTableWord nbits w = some i → Phase.ofCode (BitVec.ofNat 4 w) = some ph →
      step (s.withFetchWord nbits w) = exec i { s with blk := { s.blk with phase := ph } })

/-! ### Host transactions -/

/-- Rules R200 and R201: ACQUIRE of an idle block writes every field of it, and STATUS becomes 0x11000001; of a busy
block it has no effect. The address and the data do not matter. -/
def Obligations.AcquireStartsAnIdleBlock : Prop :=
  ∀ (a : BitVec 5) (d : Word) (s : State),
    (s.blk.busy = true → exec (.acquire a d) s = .next s) ∧
    (s.blk.busy = false → ∃ b : Block, exec (.acquire a d) s = .next { s with blk := b } ∧
      b = { phase := .startLow1, cnt := BitVec.ofNat 16 s.params.tLow1, sr := 0#40, nbit := 0#6
            lineOe := true, lineOut := false, busy := true, done := false, result := .none
            ackStage := .none, failByte := 0#3, failBit := 0#3, failWait := false
            data0 := 0#32, data1 := 0#8 } ∧
      readReg .status b = 0x11000001#32)

/-- Rules R202 and R206: the writes that change no state. -/
def Obligations.IgnoredWritesChangeNothing : Prop :=
  ∀ (a : BitVec 5) (d : Word) (s : State),
    exec (.wrCtrlNop a d) s = .next s ∧ exec (.wrStatus a d) s = .next s ∧ exec (.wrData0 a d) s = .next s ∧
    exec (.wrData1 a d) s = .next s ∧ exec (.wrUnmapped a d) s = .next s

/-- Rule R57: a write acts exactly when it is one of CTRL (`A[4:2] = 0`) with bit 0 set while `busy = 0`; every other
write, whatever its word, changes no state. -/
def Obligations.OnlyAnAcceptedStartActs : Prop :=
  ∀ (w : BitVec 38) (s : State), w.getLsbD 37 = true →
    (w.extractLsb' 34 3 = 0#3 ∧ w.getLsbD 0 = true ∧ s.blk.busy = false →
      ∃ t, exec (decodeHT w) s = .next t ∧ t.blk.busy = true ∧ t.blk.phase = .startLow1) ∧
    (¬ (w.extractLsb' 34 3 = 0#3 ∧ w.getLsbD 0 = true ∧ s.blk.busy = false) →
      exec (decodeHT w) s = .next s)

/-- Rules R203, R204, R205 and R207: each read returns its word and changes nothing else. In a safe state DATA0 and DATA1
read 0 during an acquisition and whenever the last one did not end in OK. -/
def Obligations.ReadsReturnTheirRegister : Prop :=
  ∀ (a : BitVec 5) (d : Word) (s : State),
    exec (.rdCtrl a d) s = .next { s with reads := 0#32 :: s.reads } ∧
    exec (.rdStatus a d) s = .next { s with reads := statusWord s.blk :: s.reads } ∧
    exec (.rdData0 a d) s = .next { s with reads := s.blk.data0 :: s.reads } ∧
    exec (.rdData1 a d) s = .next { s with reads := s.blk.data1.setWidth 32 :: s.reads } ∧
    exec (.rdUnmapped a d) s = .next { s with reads := 0#32 :: s.reads } ∧
    (s.Safe → s.blk.busy = true ∨ s.blk.result ≠ .ok →
      exec (.rdData0 a d) s = .next { s with reads := 0#32 :: s.reads } ∧
      exec (.rdData1 a d) s = .next { s with reads := 0#32 :: s.reads })

/-- Rule R56: a read of any offset changes no state but the host's own record of what it read, and a second read of the
same register returns the same word. -/
def Obligations.ReadsHaveNoSideEffect : Prop :=
  ∀ (w : BitVec 38) (s : State), w.getLsbD 37 = false →
    ∃ q, exec (decodeHT w) s = .next { s with reads := q :: s.reads } ∧
      ∀ w' : BitVec 38, w'.getLsbD 37 = false → w'.extractLsb' 34 3 = w.extractLsb' 34 3 →
        exec (decodeHT w') { s with reads := q :: s.reads } =
          .next { s with reads := q :: q :: s.reads }

/-- Rule R29: the offset of STATUS, its fields, its reserved bits, its reset value, and that it is read-only and read without
side effect. RESULT, ACK_STAGE and PHASE read the codes that the tables of rules R32, R33 and R21 give. -/
def Obligations.StatusWordFields : Prop :=
  (∀ b : Block,
    (statusWord b).getLsbD 0 = b.busy ∧ (statusWord b).getLsbD 1 = b.done ∧
    ((statusWord b).extractLsb' 2 3).toNat = (match b.result with
      | .none => 0 | .ok => 1 | .ackFail => 2 | .byteFail => 3 | .cksumMismatch => 4) ∧
    (statusWord b).extractLsb' 5 3 = 0#3 ∧
    ((statusWord b).extractLsb' 8 2).toNat = (match b.ackStage with
      | .none => 0 | .awaitingAckLow => 1 | .awaitingAckHigh => 2 | .awaitingBusRelease => 3) ∧
    (statusWord b).extractLsb' 10 2 = 0#2 ∧
    (statusWord b).extractLsb' 12 3 = b.failByte ∧ (statusWord b).getLsbD 15 = false ∧
    (statusWord b).extractLsb' 16 3 = b.failBit ∧ (statusWord b).getLsbD 19 = b.failWait ∧
    (statusWord b).extractLsb' 20 4 = 0#4 ∧
    ((statusWord b).extractLsb' 24 4).toNat = (match b.phase with
      | .idle => 0 | .startLow1 => 1 | .startLow2 => 2 | .startReady => 3 | .ackWaitLow => 4 | .ackWaitHigh => 5
      | .ackWaitRelease => 6 | .bitWaitGuard => 7 | .bitMeasureHigh => 8) ∧
    (statusWord b).getLsbD 28 = b.lineOe ∧ (statusWord b).getLsbD 29 = b.lineOut ∧
    (statusWord b).extractLsb' 30 2 = 0#2) ∧
  statusWord Block.reset = 0x20000000#32 ∧
  (∀ b : Block, regRead 0x04#5 b = statusWord b) ∧
  ∀ (a : BitVec 5) (d : Word) (s : State),
    exec (.wrStatus a d) s = .next s ∧
    exec (.rdStatus a d) s = .next { s with reads := statusWord s.blk :: s.reads }

/-- The transaction map of rule R73 is the register access of rules R10 and R72: a word with `W = 0` is `RegRead`, one
with `W = 1` is `RegWrite`, whichever row it decodes to. -/
def Obligations.TransactionsAreRegisterAccesses : Prop :=
  ∀ (a : BitVec 5) (d : Word) (s : State),
    exec (decodeHT (htWord false a d)) s = .next { s with reads := regRead a s.blk :: s.reads } ∧
    exec (decodeHT (htWord true a d)) s = .next { s with blk := regWrite s.params a d s.blk }

/-- Rules R201 and R65: while an acquisition runs, no host access of any kind changes the block. -/
def Obligations.BusyBlockIgnoresTheHost : Prop :=
  ∀ (w : BitVec 38) (s t : State), s.blk.busy = true → exec (decodeHT w) s = .next t →
    t.blk = s.blk ∧ t.params = s.params ∧ t.inputs = s.inputs ∧ t.line = s.line ∧
    t.pulledUp = s.pulledUp ∧ t.draws = s.draws

/-! ### The ticks of IDLE and of the start sequence -/

/-- Rule R210: a tick in IDLE changes nothing, and neither does any number of them. -/
def Obligations.IdleTicksChangeNothing : Prop :=
  (∀ s : State, exec .idle s = .next s) ∧
  ∀ (n : Nat) (s : State) (cs : List ClockCycle), s.params.Legal → s.blk.phase = .idle →
    s.inputs = plainTicks n ++ cs → run n s = .next { s with inputs := cs }

/-- The ticks of rules R120, R121 and R122: each counts down, and on its last tick the phase changes, the counter is
loaded and the line is driven as the rule says. Nothing is sampled. -/
def Obligations.StartPhaseTicks : Prop :=
  ∀ s : State,
    exec .startLow1 s = .next { s with blk :=
      if s.blk.cnt = 1#16 then
        { s.blk with phase := .startLow2, cnt := BitVec.ofNat 16 s.params.tLow2 }
      else { s.blk with cnt := s.blk.cnt - 1#16 } } ∧
    exec .startLow2 s = .next { s with blk :=
      if s.blk.cnt = 1#16 then
        { s.blk with
          phase := .startReady, cnt := BitVec.ofNat 16 s.params.tReady, lineOe := true, lineOut := true }
      else { s.blk with cnt := s.blk.cnt - 1#16 } } ∧
    exec .startReady s = .next { s with blk :=
      if s.blk.cnt = 1#16 then
        { s.blk with phase := .ackWaitLow, cnt := BitVec.ofNat 16 s.params.budget, lineOe := false }
      else { s.blk with cnt := s.blk.cnt - 1#16 } }

/-- Rules R123 and R124: from the START write the start sequence takes exactly `P_T_LOW1 + P_T_LOW2 + P_T_READY` ticks to
the transition into ACK_WAIT_LOW; on the way each phase lasts its length, the line is low in the first two and high in
the third, nothing is sampled and nothing else changes. The tick after the transition takes the first sample. With the
defaults the three phases last 30000, 20000 and 40 ticks, 50040 in all. -/
def Obligations.StartSequenceTiming : Prop :=
  ∀ (s : State) (cs : List ClockCycle), s.params.Legal →
    s.blk.phase = .startLow1 → s.blk.cnt = BitVec.ofNat 16 s.params.tLow1 →
    s.blk.lineOe = true → s.blk.lineOut = false →
    s.inputs = plainTicks (s.params.tLow1 + s.params.tLow2 + s.params.tReady) ++ cs →
    (∀ n < s.params.tLow1 + s.params.tLow2 + s.params.tReady,
      ∃ t, run n s = .next t ∧ t.line = s.line ∧ t.pulledUp = s.pulledUp ∧ t.draws = s.draws ∧
        t.reads = s.reads ∧ t.blk =
          if n < s.params.tLow1 then { s.blk with cnt := BitVec.ofNat 16 (s.params.tLow1 - n) }
          else if n < s.params.tLow1 + s.params.tLow2 then
            { s.blk with
              phase := .startLow2, cnt := BitVec.ofNat 16 (s.params.tLow1 + s.params.tLow2 - n) }
          else
            { s.blk with
              phase := .startReady, lineOut := true
              cnt := BitVec.ofNat 16 (s.params.tLow1 + s.params.tLow2 + s.params.tReady - n) }) ∧
    run (s.params.tLow1 + s.params.tLow2 + s.params.tReady) s = .next { s with
      blk := { s.blk with
        phase := .ackWaitLow, cnt := BitVec.ofNat 16 s.params.budget, lineOe := false, lineOut := true }
      inputs := cs } ∧
    (∀ (cs' : List ClockCycle) (l : Level) (ls : List Level), cs = ClockCycle.plainTick :: cs' → s.line = l :: ls →
      ∃ t, run (s.params.tLow1 + s.params.tLow2 + s.params.tReady + 1) s = .next t ∧ t.line = ls) ∧
    Params.default.tLow1 = 30000 ∧ Params.default.tLow2 = 20000 ∧ Params.default.tReady = 40 ∧
    Params.default.tLow1 + Params.default.tLow2 + Params.default.tReady = 50040

/-! ### Sampling and the edge waiter -/

/-- Rules R26 and R79, in the form the model gives the sensor (log 3): a sample is the next level of the stimulus; past
it, 1 if the sensor is a stimulus that is used up, and a free draw if it is under no law. -/
def Obligations.SampleIsTheNextLevelOrFree : Prop :=
  (∀ (s : State) (l : Level) (ls : List Level), s.line = l :: ls →
    s.sample = l ∧ s.takeSample = { s with line := ls }) ∧
  ∀ s : State, s.line = [] →
    (s.pulledUp = true → s.sample = true) ∧ (s.pulledUp = false → s.sample = Config.freeLevel s.draws) ∧
    s.takeSample = { s with draws := s.draws + 1 }

/-- Rule R101, the branch "stay in this phase": a sample at the level to leave with the counter above 1 counts down by
one and changes nothing else, in each of the five wait phases. -/
def Obligations.WaitTicksCountDown : Prop :=
  ∀ s : State, s.blk.cnt ≠ 1#16 →
    (s.sample = true →
      exec .ackWaitLow s = .next { s.takeSample with blk := { s.blk with cnt := s.blk.cnt - 1#16 } } ∧
      exec .ackWaitRelease s = .next { s.takeSample with blk := { s.blk with cnt := s.blk.cnt - 1#16 } } ∧
      exec .bitMeasureHigh s = .next { s.takeSample with blk := { s.blk with cnt := s.blk.cnt - 1#16 } }) ∧
    (s.sample = false →
      exec .ackWaitHigh s = .next { s.takeSample with blk := { s.blk with cnt := s.blk.cnt - 1#16 } } ∧
      exec .bitWaitGuard s = .next { s.takeSample with blk := { s.blk with cnt := s.blk.cnt - 1#16 } })

/-- The success of the waits that do not measure (rules R100, R102, R140, R141, R142 and R160): a sample that differs
from the level to leave enters the next wait with a full budget, whatever the counter is, its last value included. -/
def Obligations.WaitEdgesEnterTheNextWait : Prop :=
  ∀ s : State,
    (s.sample = false →
      exec .ackWaitLow s = .next { s.takeSample with blk :=
        { s.blk with phase := .ackWaitHigh, cnt := BitVec.ofNat 16 s.params.budget } } ∧
      exec .ackWaitRelease s = .next { s.takeSample with blk :=
        { s.blk with phase := .bitWaitGuard, cnt := BitVec.ofNat 16 s.params.budget } }) ∧
    (s.sample = true →
      exec .ackWaitHigh s = .next { s.takeSample with blk :=
        { s.blk with phase := .ackWaitRelease, cnt := BitVec.ofNat 16 s.params.budget } } ∧
      exec .bitWaitGuard s = .next { s.takeSample with blk :=
        { s.blk with phase := .bitMeasureHigh, cnt := BitVec.ofNat 16 s.params.budget } })

/-- Rule R143: the timeout of each ACK stage records the stage and ACK_FAIL and completes; the line is released only if
`P_ACK_FAIL_RELEASE` is set, and everything else, DATA0 and DATA1 among it, is left as it was. -/
def Obligations.AckTimeoutsRecordTheStage : Prop :=
  ∀ s : State, s.blk.cnt = 1#16 →
    let failed (stage : AckStage) : Block :=
      { s.blk with
        ackStage := stage, result := .ackFail, done := true, busy := false, phase := .idle
        lineOe := if s.params.ackFailRelease then true else s.blk.lineOe
        lineOut := if s.params.ackFailRelease then true else s.blk.lineOut }
    (s.sample = true →
      exec .ackWaitLow s = .next { s.takeSample with blk := failed .awaitingAckLow } ∧
      exec .ackWaitRelease s = .next { s.takeSample with blk := failed .awaitingBusRelease }) ∧
    (s.sample = false →
      exec .ackWaitHigh s = .next { s.takeSample with blk := failed .awaitingAckHigh })

/-- Rules R164 and R165: the timeout of either wait of bit `nbit` records byte `nbit / 8`, bit `nbit mod 8` and which wait
it was, releases the line and completes with BYTE_FAIL; the frame registers and the bits shifted in stay as they
were. -/
def Obligations.BitTimeoutsRecordThePosition : Prop :=
  ∀ s : State, s.blk.cnt = 1#16 →
    (s.sample = false → ∃ b : Block, exec .bitWaitGuard s = .next { s.takeSample with blk := b } ∧
      b.failByte.toNat = s.blk.nbit.toNat / 8 ∧ b.failBit.toNat = s.blk.nbit.toNat % 8 ∧
      b = { s.blk with
            failByte := b.failByte, failBit := b.failBit, failWait := false, lineOe := true, lineOut := true
            result := .byteFail, done := true, busy := false, phase := .idle }) ∧
    (s.sample = true → ∃ b : Block, exec .bitMeasureHigh s = .next { s.takeSample with blk := b } ∧
      b.failByte.toNat = s.blk.nbit.toNat / 8 ∧ b.failBit.toNat = s.blk.nbit.toNat % 8 ∧
      b = { s.blk with
            failByte := b.failByte, failBit := b.failBit, failWait := true, lineOe := true, lineOut := true
            result := .byteFail, done := true, busy := false, phase := .idle })

/-- Rule R104, in every wait phase (`L` its level to leave), `N` counting the sample that entered the wait: with
`N <= P_BUDGET` the wait succeeds at its `N`-th sample, `N` ticks after entry, and a measured width is `N`; with
`N >= P_BUDGET + 1` it times out at its `P_BUDGET`-th sample. Until then it only counts down. -/
def Obligations.RunLengthLaw : Prop :=
  ∀ (s : State) (L : Level) (N : Nat) (ls : List Level) (cs : List ClockCycle), s.params.Legal →
    s.blk.phase.levelToLeave = some L → s.blk.cnt = BitVec.ofNat 16 s.params.budget → 1 ≤ N →
    (N ≤ s.params.budget → s.line = List.replicate (N - 1) L ++ (!L) :: ls → s.inputs = plainTicks N ++ cs →
      (∀ m < N, ∃ t, run m s = .next t ∧
        t.blk = { s.blk with cnt := BitVec.ofNat 16 (s.params.budget - m) } ∧ t.line = s.line.drop m) ∧
      ∃ t, run N s = .next t ∧ t.line = ls ∧ t.inputs = cs ∧ t.blk.phase ≠ s.blk.phase ∧
        (s.blk.phase = .ackWaitLow → t.blk =
          { s.blk with phase := .ackWaitHigh, cnt := BitVec.ofNat 16 s.params.budget }) ∧
        (s.blk.phase = .ackWaitHigh → t.blk =
          { s.blk with phase := .ackWaitRelease, cnt := BitVec.ofNat 16 s.params.budget }) ∧
        (s.blk.phase = .ackWaitRelease → t.blk =
          { s.blk with phase := .bitWaitGuard, cnt := BitVec.ofNat 16 s.params.budget }) ∧
        (s.blk.phase = .bitWaitGuard → t.blk =
          { s.blk with phase := .bitMeasureHigh, cnt := BitVec.ofNat 16 s.params.budget }) ∧
        (s.blk.phase = .bitMeasureHigh → t.blk.sr =
          ((s.blk.sr <<< 1) ||| if s.params.threshNs < N * s.params.tickNs then 1#40 else 0#40))) ∧
    (s.params.budget + 1 ≤ N → s.line = List.replicate (N - 1) L ++ ls →
      s.inputs = plainTicks s.params.budget ++ cs →
      (∀ m < s.params.budget, ∃ t, run m s = .next t ∧
        t.blk = { s.blk with cnt := BitVec.ofNat 16 (s.params.budget - m) } ∧ t.line = s.line.drop m) ∧
      ∃ t, run s.params.budget s = .next t ∧ t.line = s.line.drop s.params.budget ∧
        t.inputs = cs ∧ t.blk.phase = .idle ∧ t.blk.busy = false ∧ t.blk.done = true ∧
        t.blk.result =
          if s.blk.phase = .bitWaitGuard ∨ s.blk.phase = .bitMeasureHigh then .byteFail else .ackFail)

/-! ### Bits and frames -/

/-- Rule R162: the threshold is strict, so a width of exactly `P_THRESH_NS` is a 0; with the defaults 45 samples are a 0
and 46 a 1. -/
def Obligations.ClassifyIsStrict : Prop :=
  (∀ (p : Params) (k : Nat), classify p k = true ↔ k * p.tickNs > p.threshNs) ∧
  (∀ (p : Params) (k : Nat), k * p.tickNs = p.threshNs → classify p k = false) ∧
  (∀ k : Nat, (k ≤ 45 → classify Params.default k = false) ∧ (46 ≤ k → classify Params.default k = true))

/-- Rules R163 and R55: a shift is `((sr << 1) | b) mod 2^40`; after 40 shifts into a cleared register, bit `n` of the stream
is at `sr[39 - n]`, which is bit `7 - (n mod 8)` of frame byte `n / 8`. -/
def Obligations.ShiftPlacesTheStream : Prop :=
  (∀ (sr : BitVec 40) (b : Bool), (shiftIn sr b).toNat = (sr.toNat * 2 + b.toNat) % 2 ^ 40) ∧
  ∀ bits : List Bool, bits.length = 40 → ∀ n : Nat, ∀ h : n < bits.length,
    (bits.foldl shiftIn 0#40).getLsbD (39 - n) = bits[n] ∧
    (frameByte (bits.foldl shiftIn 0#40) (n / 8)).getLsbD (7 - n % 8) = bits[n]

/-- Rule R182: the checksum is the sum mod 256; an all-zero frame is valid and an all-0xFF frame is not. -/
def Obligations.ChecksumIsSumMod256 : Prop :=
  (∀ b0 b1 b2 b3 : Byte,
    (checksum b0 b1 b2 b3).toNat = (b0.toNat + b1.toNat + b2.toNat + b3.toNat) % 256) ∧
  checksum 0x32#8 0x00#8 0x15#8 0x00#8 = 0x47#8 ∧ checksum 0xFF#8 0xFF#8 0x01#8 0x01#8 = 0x00#8 ∧
  frameValid 0x0000000000#40 = true ∧ frameValid 0xFFFFFFFFFF#40 = false

/-- Rules R103, R161, R162 and R163 on every bit but the last: the edge of a high pulse of `k = P_BUDGET - cnt + 1` samples
shifts in 1 if `k * P_TICK_NS > P_THRESH_NS` and 0 otherwise, and the next bit's guard begins. -/
def Obligations.MeasuredBitIsShiftedIn : Prop :=
  ∀ s : State, s.sample = false → s.blk.nbit ≠ 39#6 →
    exec .bitMeasureHigh s = .next { s.takeSample with blk :=
      { s.blk with
        sr := (s.blk.sr <<< 1) |||
          if (s.params.budget - s.blk.cnt.toNat + 1) * s.params.tickNs > s.params.threshNs then 1#40 else 0#40
        nbit := s.blk.nbit + 1#6
        phase := .bitWaitGuard, cnt := BitVec.ofNat 16 s.params.budget } }

/-- Rules R183 and R54 on bit 39: in the tick of its edge the line is released and the frame `v`, this bit included, is
checked; a valid frame is exposed, byte `i` in lane `i`, and completes OK; an invalid one completes
CKSUM_MISMATCH and the frame registers stay as they were, 0 in every safe state. -/
def Obligations.LastBitEndsTheFrame : Prop :=
  ∀ (s : State) (v : BitVec 40) (b : Nat → Byte), s.sample = false → s.blk.nbit = 39#6 →
    v = ((s.blk.sr <<< 1) |||
      if (s.params.budget - s.blk.cnt.toNat + 1) * s.params.tickNs > s.params.threshNs then 1#40 else 0#40) →
    b 0 = v.extractLsb' 32 8 → b 1 = v.extractLsb' 24 8 → b 2 = v.extractLsb' 16 8 →
    b 3 = v.extractLsb' 8 8 → b 4 = v.extractLsb' 0 8 →
    (((b 0).toNat + (b 1).toNat + (b 2).toNat + (b 3).toNat) % 256 = (b 4).toNat →
      exec .bitMeasureHigh s = .next { s.takeSample with blk :=
        { s.blk with
          sr := v, lineOe := true, lineOut := true, data0 := b 3 ++ b 2 ++ b 1 ++ b 0, data1 := b 4
          result := .ok, done := true, busy := false, phase := .idle } }) ∧
    (((b 0).toNat + (b 1).toNat + (b 2).toNat + (b 3).toNat) % 256 ≠ (b 4).toNat →
      exec .bitMeasureHigh s = .next { s.takeSample with blk :=
        { s.blk with
          sr := v, lineOe := true, lineOut := true
          result := .cksumMismatch, done := true, busy := false, phase := .idle } } ∧
      (s.Safe → s.blk.busy = true → s.blk.data0 = 0#32 ∧ s.blk.data1 = 0#8))

/-! ### Invariants -/

/-- The state after reset is safe: it meets rule R39, and its instance is legal. -/
def Obligations.ResetIsSafe : Prop := State.reset.Safe

/-- Every step from a safe state goes on to a safe state: rule R39's eight items, the counter's range (rule R42), the
line's level in each phase (rules R120 to R123) and the range of FAIL_BYTE (rule R34), for every event, whatever the
sensor shows. -/
def Obligations.EveryStepKeepsSafety : Prop :=
  ∀ s : State, s.Safe → SafeStep s

/-- Rule R39 in every state that a run from the block's reset reaches, for every instance, schedule and stimulus. -/
def Obligations.RuleR39HoldsOnEveryRun : Prop :=
  ∀ (s : State), s.blk = Block.reset → ∀ (n : Nat) (t : State), run n s = .next t → RuleR39 t.blk

/-! ### Whole-machine rules -/

/-- Rule R31: DONE is set only by a completion, which a tick of a wait phase makes and which leaves the engine in IDLE with
an outcome, and cleared only by an accepted START or by reset; no read clears it. -/
def Obligations.DoneChangesOnlyAsRuled : Prop :=
  ∀ s t : State, s.Safe → step s = .next t →
    (s.blk.done = false → t.blk.done = true →
      s.nextEvent = .tick ∧ s.blk.phase.isWait = true ∧ t.blk.phase = .idle ∧ t.blk.busy = false ∧
      t.blk.result ≠ .none) ∧
    (s.blk.done = true → t.blk.done = false →
      s.nextEvent = .reset ∨
      ∃ w, s.nextEvent = .access w ∧ w.getLsbD 37 = true ∧ w.extractLsb' 34 3 = 0#3 ∧ w.getLsbD 0 = true ∧
        s.blk.busy = false ∧ t.blk.busy = true)

/-- Rules R36, R37 and R63: DATA0 and DATA1 change only at reset and at an accepted START, which clear them, and at a
successful completion. -/
def Obligations.FrameRegistersChangeOnlyAsRuled : Prop :=
  ∀ s t : State, step s = .next t → (t.blk.data0 ≠ s.blk.data0 ∨ t.blk.data1 ≠ s.blk.data1) →
    (s.nextEvent = .reset ∧ t.blk.data0 = 0#32 ∧ t.blk.data1 = 0#8) ∨
    (∃ w, s.nextEvent = .access w ∧ w.getLsbD 37 = true ∧ w.extractLsb' 34 3 = 0#3 ∧ w.getLsbD 0 = true ∧
      s.blk.busy = false ∧ t.blk.busy = true ∧ t.blk.data0 = 0#32 ∧ t.blk.data1 = 0#8) ∨
    (s.nextEvent = .tick ∧ s.blk.phase = .bitMeasureHigh ∧ s.blk.nbit = 39#6 ∧ s.sample = false ∧
      t.blk.result = .ok ∧ t.blk.done = true)

/-- Rule R185: no phase is entered out of order. A step leaves the phase as it is, or resets to IDLE, or starts an
acquisition from IDLE, or follows the order by a tick; out of it only a wait phase goes, to IDLE with an outcome. -/
def Obligations.PhasesFollowTheirOrder : Prop :=
  ∀ s t : State, s.Safe → step s = .next t →
    t.blk.phase = s.blk.phase ∨
    (s.nextEvent = .reset ∧ t.blk.phase = .idle) ∨
    (s.blk.phase = .idle ∧ t.blk.phase = .startLow1 ∧ ∃ w, s.nextEvent = .access w) ∨
    (s.nextEvent = .tick ∧
      ((s.blk.phase = .startLow1 ∧ t.blk.phase = .startLow2) ∨
       (s.blk.phase = .startLow2 ∧ t.blk.phase = .startReady) ∨
       (s.blk.phase = .startReady ∧ t.blk.phase = .ackWaitLow) ∨
       (s.blk.phase = .ackWaitLow ∧ t.blk.phase = .ackWaitHigh) ∨
       (s.blk.phase = .ackWaitHigh ∧ t.blk.phase = .ackWaitRelease) ∨
       (s.blk.phase = .ackWaitRelease ∧ t.blk.phase = .bitWaitGuard) ∨
       (s.blk.phase = .bitWaitGuard ∧ t.blk.phase = .bitMeasureHigh) ∨
       (s.blk.phase = .bitMeasureHigh ∧ t.blk.phase = .bitWaitGuard ∧
         s.blk.nbit.toNat < 39 ∧ t.blk.nbit.toNat = s.blk.nbit.toNat + 1) ∨
       (s.blk.phase.isWait = true ∧ t.blk.phase = .idle ∧ t.blk.done = true ∧ t.blk.result ≠ .none)))

/-- Rule R26: the line is sampled once in each tick of phases 4 to 8, and in no other step. -/
def Obligations.SamplesOnlyInWaitPhases : Prop :=
  ∀ s t : State, step s = .next t →
    (s.nextEvent = .tick → 4 ≤ s.blk.phase.code.toNat →
      (∀ l ls, s.line = l :: ls → t.line = ls ∧ t.draws = s.draws) ∧
      (s.line = [] → t.line = [] ∧ t.draws = s.draws + 1)) ∧
    (s.nextEvent ≠ .tick ∨ s.blk.phase.code.toNat < 4 → t.line = s.line ∧ t.draws = s.draws)

/-- Rules R123 and R259: while the engine drives the line, and in IDLE, nothing the sensor does changes what a step does
to the block. -/
def Obligations.DrivenPhasesIgnoreTheSensor : Prop :=
  ∀ (s t : State) (line : List Level) (up : Bool) (draws : Nat),
    s.blk.phase.code.toNat < 4 → step s = .next t →
    step { s with line := line, pulledUp := up, draws := draws } =
      .next { t with line := line, pulledUp := up, draws := draws }

/-- Rule R209: two acquisitions under the same instance, events and levels, each begun by an accepted START (word `w`),
go the same way whatever came before: the same block after every step, and the same words read. -/
def Obligations.AcquisitionsAreIndependent : Prop :=
  ∀ (s₁ s₂ : State) (w : BitVec 38) (tk : Bool) (cs : List ClockCycle), s₁.params.Legal → s₂.params = s₁.params →
    s₁.blk.busy = false → s₂.blk.busy = false →
    w.getLsbD 37 = true → w.extractLsb' 34 3 = 0#3 → w.getLsbD 0 = true →
    s₁.inputs = { reset := false, access := some w, tick := tk } :: cs → s₂.inputs = s₁.inputs →
    s₂.line = s₁.line → s₂.pulledUp = s₁.pulledUp → s₂.draws = s₁.draws →
    ∀ n, ∃ t₁ t₂ qs,
      run (n + 1) s₁ = .next t₁ ∧ run (n + 1) s₂ = .next t₂ ∧
      t₂.blk = t₁.blk ∧ t₁.reads = qs ++ s₁.reads ∧ t₂.reads = qs ++ s₂.reads

/-! ### Whole acquisitions -/

/-- Rules R104, R161, R183 and R187, end to end. From an idle block, a START and then ticks, on a line that holds each
level for a number of samples every wait accepts: `n` highs, the ACK low of `l` and high of `h`, and 40 bits, each a
guard low of `g` and a high of `k` samples. The acquisition is busy for exactly `T_S` plus the sum of the 83 wait
lengths and then has the frame `v`: bit `j` is 1 iff `k` was wider than the threshold. It ends OK with `v` exposed if
the checksum holds, and CKSUM_MISMATCH with nothing exposed if not. -/
def Obligations.AcquisitionDecodesTheWaveform : Prop :=
  ∀ (s : State) (n l h : Nat) (bits : List (Nat × Nat)) (ls : List Level) (cs : List ClockCycle) (T : Nat)
    (v : BitVec 40), s.params.Legal → s.blk.busy = false →
    n + 1 ≤ s.params.budget → 1 ≤ l → l ≤ s.params.budget → 1 ≤ h → h ≤ s.params.budget →
    (∀ x ∈ bits, 1 ≤ x.1 ∧ x.1 ≤ s.params.budget ∧ 1 ≤ x.2 ∧ x.2 ≤ s.params.budget) → bits.length = 40 →
    T = s.params.startTicks + (n + 1) + l + h + (bits.map fun x => x.1 + x.2).sum →
    s.line = wave n l h bits ++ false :: ls →
    s.inputs = { reset := false, access := some acquireWord, tick := false } :: plainTicks T ++ cs →
    (∀ j, ∀ hj : j < bits.length, v.getLsbD (39 - j) = decide ((bits[j]).2 * s.params.tickNs > s.params.threshNs)) →
    (∀ m, 1 ≤ m → m ≤ T → ∃ u, run m s = .next u ∧ u.blk.busy = true) ∧
    ∃ t, run (T + 1) s = .next t ∧ t.inputs = cs ∧ t.line = ls ∧
      t.blk.busy = false ∧ t.blk.done = true ∧ t.blk.phase = .idle ∧ t.blk.lineOe = true ∧ t.blk.lineOut = true ∧
      if ((v.extractLsb' 32 8).toNat + (v.extractLsb' 24 8).toNat + (v.extractLsb' 16 8).toNat +
          (v.extractLsb' 8 8).toNat) % 256 = (v.extractLsb' 0 8).toNat then
        t.blk.result = .ok ∧
        t.blk.data0 = v.extractLsb' 8 8 ++ v.extractLsb' 16 8 ++ v.extractLsb' 24 8 ++ v.extractLsb' 32 8 ∧
        t.blk.data1 = v.extractLsb' 0 8
      else t.blk.result = .cksumMismatch ∧ t.blk.data0 = 0#32 ∧ t.blk.data1 = 0#8

/-- Rules R187 and R262, the upper bound: a running acquisition completes, with an outcome, within `T_S + 83 * P_BUDGET`
ticks of it, whatever the sensor shows and whatever the host does meanwhile, if no reset is applied and ticks keep
arriving. With the defaults the bound is 58340. -/
def Obligations.EveryAcquisitionEnds : Prop :=
  (∀ (s : State) (cs rest : List ClockCycle), s.Safe → s.blk.busy = true → s.inputs = cs ++ rest → NoReset cs →
    s.params.startTicks + 83 * s.params.budget ≤ ticksIn cs →
    ∃ n ≤ stepsIn cs, ∃ t, run n s = .next t ∧
      t.blk.busy = false ∧ t.blk.done = true ∧ t.blk.phase = .idle ∧ t.blk.result ≠ .none ∧
      ticksIn s.inputs ≤ ticksIn t.inputs + (s.params.startTicks + 83 * s.params.budget)) ∧
  Params.default.startTicks + 83 * Params.default.budget = 58340

/-- Rule R261: with the defaults, a sensor that shows the nominal figures (20 highs, an ACK low and high of 80, and for each
bit a guard of 50 and a high of 70 for a 1 or 27 for a 0) has the acquisition complete at tick
`50040 + 21 + 80 + 80 + 40*50 + 27*z + 70*o` and no earlier. For the bits of the source's example frame
32 00 15 00 47, most significant first, that is tick 53731, and the frame is read OK. -/
def Obligations.NominalAcquisitionTiming : Prop :=
  let nominal (bits : List Bool) : List Level := wave 20 80 80 (bits.map fun b => (50, if b then 70 else 27))
  let start : ClockCycle := { reset := false, access := some acquireWord, tick := false }
  (∀ (s : State) (bits : List Bool) (T : Nat) (ls : List Level) (cs : List ClockCycle),
    s.params = Params.default → s.blk.busy = false → bits.length = 40 →
    T = 50040 + 21 + 80 + 80 + 40 * 50 + 27 * bits.count false + 70 * bits.count true →
    s.line = nominal bits ++ false :: ls → s.inputs = start :: plainTicks T ++ cs →
    (∀ m, 1 ≤ m → m ≤ T → ∃ u, run m s = .next u ∧ u.blk.busy = true) ∧
    ∃ t, run (T + 1) s = .next t ∧ t.blk.busy = false ∧ t.blk.done = true) ∧
  (∀ (s : State) (bits : List Bool) (ls : List Level) (cs : List ClockCycle),
    s.params = Params.default → s.blk.busy = false →
    bits = (List.range 40).map (fun n => (0x3200150047#40).getLsbD (39 - n)) →
    s.line = nominal bits ++ false :: ls → s.inputs = start :: plainTicks 53731 ++ cs →
    (∀ m, 1 ≤ m → m ≤ 53731 → ∃ u, run m s = .next u ∧ u.blk.busy = true) ∧
    ∃ t, run (53731 + 1) s = .next t ∧ t.blk.busy = false ∧ t.blk.done = true ∧ t.blk.result = .ok ∧
      t.blk.data0 = 0x00150032#32 ∧ t.blk.data1 = 0x47#8)

/-- Rule R187, the lower bound, for the outcomes that take all 83 waits (that it is stated for these alone is the model's
reading of the rule, log 13): from the START write to OK or CKSUM_MISMATCH there
are at least `T_S + 83` ticks, whatever happens on the way. -/
def Obligations.AFrameTakesAtLeast : Prop :=
  ∀ (s t : State) (n : Nat), s.params.Legal → s.blk.phase = .startLow1 → s.blk.busy = true →
    s.blk.cnt = BitVec.ofNat 16 s.params.tLow1 → s.blk.nbit = 0#6 → s.blk.result = .none →
    n ≤ stepsIn s.inputs → run n s = .next t →
    (t.blk.result = .ok ∨ t.blk.result = .cksumMismatch) →
    ticksIn t.inputs + (s.params.startTicks + 83) ≤ ticksIn s.inputs

/-! ### The host's blocking call -/

/-- Rule R78: the result of READ_FRAME names the outcome the three words record. Rule R78 names a result for RESULT 1 to 4;
that RESULT = NONE gives none is the model's choice (log 16). -/
def Obligations.ReadResultNamesTheOutcome : Prop :=
  ∀ b : Block, readResult (statusWord b) b.data0 (b.data1.setWidth 32) =
    match b.result with
    | .none => none
    | .ok => some (.ok (b.data0.extractLsb' 0 8) (b.data0.extractLsb' 8 8) (b.data0.extractLsb' 16 8)
        (b.data0.extractLsb' 24 8) b.data1)
    | .ackFail => some .ackFailure
    | .byteFail => some (.byteFailure b.failByte b.failBit)
    | .cksumMismatch => some .checksumMismatch

/-- Rules R78, R208 and R262: READ_FRAME of a safe idle block returns with one of the four results, and with the same one
however the host spaces its polls and its three reads, if the polls go on for as long as the longest acquisition
takes. The result is the outcome the block then records, and a frame returned has a checksum that matches. (That the
spacing is given as numbers of steps is the model's form, log 16; the schedule holds ticks alone.) -/
def Obligations.ReadFrameReturns : Prop :=
  ∀ (s : State) (N : Nat) (cs : List ClockCycle), s.Safe → s.blk.busy = false → s.inputs = plainTicks N ++ cs →
    ∃ r, ∀ (polls : List Nat) (g0 g1 g2 : Nat),
      s.params.startTicks + 83 * s.params.budget ≤ polls.sum → polls.sum + g0 + g1 + g2 ≤ N →
      ∃ t k, readFrame polls g0 g1 g2 s = some (some r, t) ∧ t.inputs = plainTicks k ++ cs ∧ t.blk.done = true ∧
        readResult (statusWord t.blk) t.blk.data0 (t.blk.data1.setWidth 32) = some r ∧
        ∀ b0 b1 b2 b3 b4, r = .ok b0 b1 b2 b3 b4 →
          (b0.toNat + b1.toNat + b2.toNat + b3.toNat) % 256 = b4.toNat

/-- Rule R78: POLL reads the register, ends at the read whose word satisfies the test, and repeats from the read otherwise;
with no read left it has not ended. (That the steps before each read are given is the model's form, log 16.) -/
def Obligations.PollRepeatsUntilItsTest : Prop :=
  ∀ (r : HostReg) (mask val : Word) (gap : Nat) (gaps : List Nat) (s u : State), s.params.Legal →
    run gap s = .next u →
    (regRead r.offset u.blk &&& mask = val →
      poll r mask val (gap :: gaps) s = some { u with reads := regRead r.offset u.blk :: u.reads }) ∧
    (regRead r.offset u.blk &&& mask ≠ val →
      poll r mask val (gap :: gaps) s =
        poll r mask val gaps { u with reads := regRead r.offset u.blk :: u.reads }) ∧
    poll r mask val [] s = none

/-! ### The default instance -/

/-- Rule R6: the default of every parameter, and that they make a legal instance (rule R7). That the machine after reset is
this instance is the model's choice (log 5). -/
def Obligations.DefaultInstance : Prop :=
  Params.default.tickNs = 1000 ∧ Params.default.budget = 100 ∧ Params.default.tLow1 = 30000 ∧
  Params.default.tLow2 = 20000 ∧ Params.default.tMinLow = 18000 ∧ Params.default.tReady = 40 ∧
  Params.default.threshNs = 45000 ∧ Params.default.ackFailRelease = false ∧
  Params.default.Legal ∧ State.reset.params = Params.default
end

