-- ==== Sys2Proof/Laws/Decode.lean ====
section
/-! SUPPORT. The fields of a transaction word, both ways, and the register its offset selects. -/

namespace Sys2Proof

@[simp] theorem htW_htWord (w : Bool) (a : BitVec 5) (d : Word) : htW (htWord w a d) = w := by
  simp only [htW, htWord, BitVec.getLsbD_append]
  simp

@[simp] theorem htA_htWord (w : Bool) (a : BitVec 5) (d : Word) : htA (htWord w a d) = a := by
  apply BitVec.eq_of_getLsbD_eq
  intro i hi
  simp only [htA, htWord, BitVec.getLsbD_extractLsb', BitVec.getLsbD_append]
  have h1 : ¬ (32 + i < 32) := by omega
  have h2 : 32 + i - 32 = i := by omega
  simp [h1, h2, hi]

@[simp] theorem htD_htWord (w : Bool) (a : BitVec 5) (d : Word) : htD (htWord w a d) = d := by
  apply BitVec.eq_of_getLsbD_eq
  intro i hi
  simp only [htD, htWord, BitVec.getLsbD_extractLsb', BitVec.getLsbD_append]
  simp [hi]

/-- A transaction word is its three fields. -/
theorem htWord_fields (w : BitVec 38) : htWord (htW w) (htA w) (htD w) = w := by
  apply BitVec.eq_of_getLsbD_eq
  intro i hi
  simp only [htWord, htW, htA, htD, BitVec.getLsbD_append, BitVec.getLsbD_extractLsb']
  by_cases h1 : i < 32
  · simp [h1]
  · by_cases h2 : i - 32 < 5
    · have : 32 + (i - 32) = i := by omega
      simp [h1, h2, this]
    · have : i = 37 := by omega
      subst this
      simp

/-- The register of an offset, by the number `addr[4:2]` (20_memory.md rule R52). -/
theorem regOf_selBits (a : BitVec 5) :
    regOf a =
      if selBits a = 0#3 then .ctrl else if selBits a = 1#3 then .status
      else if selBits a = 2#3 then .data0 else if selBits a = 3#3 then .data1 else .unmapped := by
  revert a; decide

/-- `addr[4] = 1` says that `addr[4:2]` is in 4..7. -/
theorem regOf_unmapped_iff (a : BitVec 5) : regOf a = .unmapped ↔ a.getLsbD 4 = true := by
  revert a; decide

/-! ### The rows of the opcode table -/

/-- The eleven host transaction rows, as (match, mask) (30_encoding.md rule R73). -/
def htRows : List (BitVec 38 × BitVec 38) :=
  [(0x2000000001#38, 0x3C00000001#38), (0x2000000000#38, 0x3C00000001#38), (0x2400000000#38, 0x3C00000000#38),
   (0x2800000000#38, 0x3C00000000#38), (0x2C00000000#38, 0x3C00000000#38), (0x3000000000#38, 0x3000000000#38),
   (0x0000000000#38, 0x3C00000000#38), (0x0400000000#38, 0x3C00000000#38), (0x0800000000#38, 0x3C00000000#38),
   (0x0C00000000#38, 0x3C00000000#38), (0x1000000000#38, 0x3000000000#38)]

/-- Two rows differ in a bit that both of them read, unless they are the same row: one check over the list. -/
theorem htRows_check :
    (htRows.all fun r => htRows.all fun q => (r.1 &&& q.2 != q.1 &&& r.2) || r == q) = true := by rfl

theorem htRows_differ {r q : BitVec 38 × BitVec 38} (hr : r ∈ htRows) (hq : q ∈ htRows)
    (h : r.1 &&& q.2 = q.1 &&& r.2) : r = q := by
  have hc := List.all_eq_true.1 (List.all_eq_true.1 htRows_check r hr) q hq
  simpa [h] using hc

/-- "The rows are disjoint" (rule R73): no word matches two of them. -/
theorem htRows_disjoint {r q : BitVec 38 × BitVec 38} (hr : r ∈ htRows) (hq : q ∈ htRows) {w : BitVec 38}
    (h1 : w &&& r.2 = r.1) (h2 : w &&& q.2 = q.1) : r = q := by
  apply htRows_differ hr hq
  rw [← h1, ← h2, BitVec.and_assoc, BitVec.and_assoc, BitVec.and_comm r.2]

/-- The row of an instruction that a transaction word matches is one of the eleven. -/
theorem row_mem_htRows {i : Instr} {w : BitVec 38} (h : (rowOf i).Matches (.ht w) = true) :
    ∃ r ∈ htRows, rowOf i = .ht r.1 r.2 ∧ w &&& r.2 = r.1 := by
  cases i <;> simp only [rowOf, Row.Matches, beq_iff_eq, reduceCtorEq] at h
  case acquire => exact ⟨(0x2000000001#38, 0x3C00000001#38), by decide, rfl, h⟩
  case wrCtrlNop => exact ⟨(0x2000000000#38, 0x3C00000001#38), by decide, rfl, h⟩
  case wrStatus => exact ⟨(0x2400000000#38, 0x3C00000000#38), by decide, rfl, h⟩
  case wrData0 => exact ⟨(0x2800000000#38, 0x3C00000000#38), by decide, rfl, h⟩
  case wrData1 => exact ⟨(0x2C00000000#38, 0x3C00000000#38), by decide, rfl, h⟩
  case wrUnmapped => exact ⟨(0x3000000000#38, 0x3000000000#38), by decide, rfl, h⟩
  case rdCtrl => exact ⟨(0x0000000000#38, 0x3C00000000#38), by decide, rfl, h⟩
  case rdStatus => exact ⟨(0x0400000000#38, 0x3C00000000#38), by decide, rfl, h⟩
  case rdData0 => exact ⟨(0x0800000000#38, 0x3C00000000#38), by decide, rfl, h⟩
  case rdData1 => exact ⟨(0x0C00000000#38, 0x3C00000000#38), by decide, rfl, h⟩
  case rdUnmapped => exact ⟨(0x1000000000#38, 0x3000000000#38), by decide, rfl, h⟩

end Sys2Proof
end

