-- ==== Sys2Proof/Laws/State.lean ====
section
/-! SUPPORT. What each update of the state does to each field: one lemma a field, so that no proof unfolds a record
update. -/

namespace Sys2Proof.Machine

/-! ### Updates of the block -/

section Drive
variable (oe : Bool) (out : Level) (b : Block)
@[simp] theorem Block.drive_phase : (b.drive oe out).phase = b.phase := rfl
@[simp] theorem Block.drive_cnt : (b.drive oe out).cnt = b.cnt := rfl
@[simp] theorem Block.drive_sr : (b.drive oe out).sr = b.sr := rfl
@[simp] theorem Block.drive_nbit : (b.drive oe out).nbit = b.nbit := rfl
@[simp] theorem Block.drive_lineOe : (b.drive oe out).lineOe = oe := rfl
@[simp] theorem Block.drive_lineOut : (b.drive oe out).lineOut = out := rfl
@[simp] theorem Block.drive_busy : (b.drive oe out).busy = b.busy := rfl
@[simp] theorem Block.drive_done : (b.drive oe out).done = b.done := rfl
@[simp] theorem Block.drive_result : (b.drive oe out).result = b.result := rfl
@[simp] theorem Block.drive_ackStage : (b.drive oe out).ackStage = b.ackStage := rfl
@[simp] theorem Block.drive_failByte : (b.drive oe out).failByte = b.failByte := rfl
@[simp] theorem Block.drive_failBit : (b.drive oe out).failBit = b.failBit := rfl
@[simp] theorem Block.drive_failWait : (b.drive oe out).failWait = b.failWait := rfl
@[simp] theorem Block.drive_data0 : (b.drive oe out).data0 = b.data0 := rfl
@[simp] theorem Block.drive_data1 : (b.drive oe out).data1 = b.data1 := rfl
end Drive

/-- Releasing is driving high. -/
theorem Block.release_eq (b : Block) : b.release = b.drive true true := rfl

section Enter
variable (p : Params) (ph : Phase) (n : Nat) (b : Block)
@[simp] theorem Block.enterDelay_phase : (b.enterDelay ph n).phase = ph := rfl
@[simp] theorem Block.enterDelay_cnt : (b.enterDelay ph n).cnt = counterOf n := rfl
@[simp] theorem Block.enterDelay_sr : (b.enterDelay ph n).sr = b.sr := rfl
@[simp] theorem Block.enterDelay_nbit : (b.enterDelay ph n).nbit = b.nbit := rfl
@[simp] theorem Block.enterDelay_lineOe : (b.enterDelay ph n).lineOe = b.lineOe := rfl
@[simp] theorem Block.enterDelay_lineOut : (b.enterDelay ph n).lineOut = b.lineOut := rfl
@[simp] theorem Block.enterDelay_busy : (b.enterDelay ph n).busy = b.busy := rfl
@[simp] theorem Block.enterDelay_done : (b.enterDelay ph n).done = b.done := rfl
@[simp] theorem Block.enterDelay_result : (b.enterDelay ph n).result = b.result := rfl
@[simp] theorem Block.enterDelay_ackStage : (b.enterDelay ph n).ackStage = b.ackStage := rfl
@[simp] theorem Block.enterDelay_failByte : (b.enterDelay ph n).failByte = b.failByte := rfl
@[simp] theorem Block.enterDelay_failBit : (b.enterDelay ph n).failBit = b.failBit := rfl
@[simp] theorem Block.enterDelay_failWait : (b.enterDelay ph n).failWait = b.failWait := rfl
@[simp] theorem Block.enterDelay_data0 : (b.enterDelay ph n).data0 = b.data0 := rfl
@[simp] theorem Block.enterDelay_data1 : (b.enterDelay ph n).data1 = b.data1 := rfl

/-- Entering a wait is entering a delay of `P_BUDGET` ticks, so the field lemmas are those of `enterDelay`. -/
@[simp] theorem Block.enterWait_eq : b.enterWait p ph = b.enterDelay ph p.budget := rfl
end Enter

section Complete
variable (r : Result) (b : Block)
@[simp] theorem Block.complete_phase : (b.complete r).phase = .idle := rfl
@[simp] theorem Block.complete_cnt : (b.complete r).cnt = b.cnt := rfl
@[simp] theorem Block.complete_sr : (b.complete r).sr = b.sr := rfl
@[simp] theorem Block.complete_nbit : (b.complete r).nbit = b.nbit := rfl
@[simp] theorem Block.complete_lineOe : (b.complete r).lineOe = b.lineOe := rfl
@[simp] theorem Block.complete_lineOut : (b.complete r).lineOut = b.lineOut := rfl
@[simp] theorem Block.complete_busy : (b.complete r).busy = false := rfl
@[simp] theorem Block.complete_done : (b.complete r).done = true := rfl
@[simp] theorem Block.complete_result : (b.complete r).result = r := rfl
@[simp] theorem Block.complete_ackStage : (b.complete r).ackStage = b.ackStage := rfl
@[simp] theorem Block.complete_failByte : (b.complete r).failByte = b.failByte := rfl
@[simp] theorem Block.complete_failBit : (b.complete r).failBit = b.failBit := rfl
@[simp] theorem Block.complete_failWait : (b.complete r).failWait = b.failWait := rfl
@[simp] theorem Block.complete_data0 : (b.complete r).data0 = b.data0 := rfl
@[simp] theorem Block.complete_data1 : (b.complete r).data1 = b.data1 := rfl
end Complete

/-! ### Updates of the state -/

section OnBlock
variable (f : Block → Block) (s : State)
@[simp] theorem State.onBlock_params : (s.onBlock f).params = s.params := rfl
@[simp] theorem State.onBlock_blk : (s.onBlock f).blk = f s.blk := rfl
@[simp] theorem State.onBlock_inputs : (s.onBlock f).inputs = s.inputs := rfl
@[simp] theorem State.onBlock_line : (s.onBlock f).line = s.line := rfl
@[simp] theorem State.onBlock_pulledUp : (s.onBlock f).pulledUp = s.pulledUp := rfl
@[simp] theorem State.onBlock_draws : (s.onBlock f).draws = s.draws := rfl
@[simp] theorem State.onBlock_reads : (s.onBlock f).reads = s.reads := rfl
end OnBlock

section TakeSample
variable (s : State)
@[simp] theorem State.takeSample_params : s.takeSample.params = s.params := by
  unfold State.takeSample; split <;> rfl
@[simp] theorem State.takeSample_blk : s.takeSample.blk = s.blk := by
  unfold State.takeSample; split <;> rfl
@[simp] theorem State.takeSample_inputs : s.takeSample.inputs = s.inputs := by
  unfold State.takeSample; split <;> rfl
@[simp] theorem State.takeSample_line : s.takeSample.line = s.line.tail := by
  unfold State.takeSample; split <;> simp_all
@[simp] theorem State.takeSample_pulledUp : s.takeSample.pulledUp = s.pulledUp := by
  unfold State.takeSample; split <;> rfl
@[simp] theorem State.takeSample_reads : s.takeSample.reads = s.reads := by
  unfold State.takeSample; split <;> rfl
end TakeSample

section OnSample
variable (f : Level → Block → Block) (s : State)
@[simp] theorem State.onSample_params : (s.onSample f).params = s.params := by simp [State.onSample]
@[simp] theorem State.onSample_blk : (s.onSample f).blk = f s.sample s.blk := by simp [State.onSample]
@[simp] theorem State.onSample_inputs : (s.onSample f).inputs = s.inputs := by simp [State.onSample]
@[simp] theorem State.onSample_line : (s.onSample f).line = s.line.tail := by simp [State.onSample]
@[simp] theorem State.onSample_pulledUp : (s.onSample f).pulledUp = s.pulledUp := by simp [State.onSample]
@[simp] theorem State.onSample_draws : (s.onSample f).draws = s.takeSample.draws := rfl
@[simp] theorem State.onSample_reads : (s.onSample f).reads = s.reads := by simp [State.onSample]
end OnSample

section Respond
variable (q : Word) (s : State)
@[simp] theorem State.respond_params : (s.respond q).params = s.params := rfl
@[simp] theorem State.respond_blk : (s.respond q).blk = s.blk := rfl
@[simp] theorem State.respond_inputs : (s.respond q).inputs = s.inputs := rfl
@[simp] theorem State.respond_line : (s.respond q).line = s.line := rfl
@[simp] theorem State.respond_pulledUp : (s.respond q).pulledUp = s.pulledUp := rfl
@[simp] theorem State.respond_draws : (s.respond q).draws = s.draws := rfl
@[simp] theorem State.respond_reads : (s.respond q).reads = q :: s.reads := rfl
end Respond

section ApplyReset
variable (s : State)
@[simp] theorem State.applyReset_params : s.applyReset.params = s.params := rfl
@[simp] theorem State.applyReset_blk : s.applyReset.blk = Block.reset := rfl
@[simp] theorem State.applyReset_inputs : s.applyReset.inputs = s.inputs := rfl
@[simp] theorem State.applyReset_line : s.applyReset.line = s.line := rfl
@[simp] theorem State.applyReset_pulledUp : s.applyReset.pulledUp = s.pulledUp := rfl
@[simp] theorem State.applyReset_draws : s.applyReset.draws = s.draws := rfl
@[simp] theorem State.applyReset_reads : s.applyReset.reads = s.reads := rfl
end ApplyReset

section AfterEvent
variable (s : State)
/-- Taking an event off the schedule changes the schedule alone. -/
theorem State.afterEvent_eq : s.afterEvent = { s with inputs := s.afterEvent.inputs } := by
  unfold State.afterEvent; repeat' split
  all_goals rfl
@[simp] theorem State.afterEvent_params : s.afterEvent.params = s.params := by rw [State.afterEvent_eq]
@[simp] theorem State.afterEvent_blk : s.afterEvent.blk = s.blk := by rw [State.afterEvent_eq]
@[simp] theorem State.afterEvent_line : s.afterEvent.line = s.line := by rw [State.afterEvent_eq]
@[simp] theorem State.afterEvent_pulledUp : s.afterEvent.pulledUp = s.pulledUp := by rw [State.afterEvent_eq]
@[simp] theorem State.afterEvent_draws : s.afterEvent.draws = s.draws := by rw [State.afterEvent_eq]
@[simp] theorem State.afterEvent_reads : s.afterEvent.reads = s.reads := by rw [State.afterEvent_eq]
end AfterEvent

section SampleOf
variable (s : State)
/-- A sample taken from a stimulus (30_encoding.md rule R79). -/
theorem State.sample_of_line {l : Level} {ls : List Level} (h : s.line = l :: ls) : s.sample = l := by
  simp [State.sample, h]
/-- A sample past a stimulus that is used up is 1 (rule R79). -/
theorem State.sample_of_pulledUp (h : s.line = []) (hp : s.pulledUp = true) : s.sample = true := by
  simp [State.sample, h, hp]
/-- A sample that no stimulus names is a free draw (10_state.md rule R26). -/
theorem State.sample_of_free (h : s.line = []) (hp : s.pulledUp = false) :
    s.sample = Config.freeLevel s.draws := by
  simp [State.sample, h, hp]
theorem State.takeSample_of_line {l : Level} {ls : List Level} (h : s.line = l :: ls) :
    s.takeSample = { s with line := ls } := by
  simp [State.takeSample, h]
theorem State.takeSample_of_nil (h : s.line = []) : s.takeSample = { s with draws := s.draws + 1 } := by
  simp [State.takeSample, h]
end SampleOf

end Sys2Proof.Machine
end

