-- ==== Sys2Proof/Laws/Ops.lean ====
section
/-! SUPPORT. One lemma for each shared operation that says what it can do. -/

namespace Sys2Proof.Machine

/-! ### The counter -/

/-- The test "`cnt - 1 == 0`" of the delay and wait ticks is the test `cnt = 1`. -/
theorem cnt_pred_eq_zero (c : BitVec 16) : c - 1#16 = 0#16 ↔ c = 1#16 := by
  constructor <;> intro h <;> bv_omega

/-- A counter that has not run down loses one. -/
theorem cnt_pred_toNat {c : BitVec 16} (h : 1 ≤ c.toNat) : (c - 1#16).toNat = c.toNat - 1 := by
  bv_omega

/-- A value that fits in the counter is loaded as it is. -/
theorem counterOf_toNat {n : Nat} (h : n ≤ 65535) : (counterOf n).toNat = n := by
  simp only [counterOf, BitVec.toNat_ofNat]; omega

theorem counterOf_one : counterOf 1 = 1#16 := rfl

theorem counterOf_succ_pred (n : Nat) : counterOf (n + 1) - 1#16 = counterOf n := by
  simp only [counterOf]
  apply BitVec.eq_of_toNat_eq
  simp only [BitVec.toNat_sub, BitVec.toNat_ofNat]
  omega

theorem counterOf_eq_one {n : Nat} (h : n ≤ 65535) : counterOf n = 1#16 ↔ n = 1 := by
  constructor
  · intro e
    have := congrArg BitVec.toNat e
    rw [counterOf_toNat h] at this
    simpa using this
  · rintro rfl; rfl

/-! ### Delay and wait ticks -/

section Ticks
variable {onEnd onTimeout : Block → Block} {onEdge : BitVec 16 → Block → Block} {L smp : Level} {b : Block}

theorem delayTick_last (h : b.cnt = 1#16) : delayTick onEnd b = onEnd b := by
  simp [delayTick, h]

theorem delayTick_count (h : b.cnt ≠ 1#16) : delayTick onEnd b = { b with cnt := b.cnt - 1#16 } := by
  rw [delayTick, if_neg (mt (cnt_pred_eq_zero _).1 h)]

/-- All that a delay tick can do. -/
theorem delayTick_cases (onEnd : Block → Block) (b : Block) :
    (b.cnt = 1#16 ∧ delayTick onEnd b = onEnd b) ∨
    (b.cnt ≠ 1#16 ∧ delayTick onEnd b = { b with cnt := b.cnt - 1#16 }) := by
  by_cases h : b.cnt = 1#16
  · exact .inl ⟨h, delayTick_last h⟩
  · exact .inr ⟨h, delayTick_count h⟩

/-- The compare comes first (40_edge_wait.md rule R102). -/
theorem waitTick_edge (h : smp ≠ L) : waitTick L onEdge onTimeout smp b = onEdge b.cnt b := by
  rw [waitTick, if_pos h]

theorem waitTick_timeout (h : b.cnt = 1#16) : waitTick L onEdge onTimeout L b = onTimeout b := by
  simp [waitTick, h]

theorem waitTick_count (h : b.cnt ≠ 1#16) :
    waitTick L onEdge onTimeout L b = { b with cnt := b.cnt - 1#16 } := by
  rw [waitTick, if_neg (by simp), if_neg (mt (cnt_pred_eq_zero _).1 h)]

/-- All that a wait tick can do. -/
theorem waitTick_cases (L : Level) (onEdge : BitVec 16 → Block → Block) (onTimeout : Block → Block)
    (smp : Level) (b : Block) :
    (smp ≠ L ∧ waitTick L onEdge onTimeout smp b = onEdge b.cnt b) ∨
    (smp = L ∧ b.cnt = 1#16 ∧ waitTick L onEdge onTimeout smp b = onTimeout b) ∨
    (smp = L ∧ b.cnt ≠ 1#16 ∧ waitTick L onEdge onTimeout smp b = { b with cnt := b.cnt - 1#16 }) := by
  by_cases hs : smp = L
  · subst hs
    by_cases h : b.cnt = 1#16
    · exact .inr (.inl ⟨rfl, h, waitTick_timeout h⟩)
    · exact .inr (.inr ⟨rfl, h, waitTick_count h⟩)
  · exact .inl ⟨hs, waitTick_edge hs⟩

end Ticks

/-! ### The ends of an acquisition -/

section Ends
variable (p : Params) (stage : AckStage) (wait : Bool) (v : BitVec 40) (b : Block)

/-- `AckFail(stage)` written out. -/
theorem Block.ackFail_eq : b.ackFail p stage =
    { b with
      ackStage := stage, result := .ackFail, done := true, busy := false, phase := .idle
      lineOe := p.ackFailRelease || b.lineOe, lineOut := p.ackFailRelease || b.lineOut } := by
  unfold Block.ackFail
  cases h : p.ackFailRelease <;> simp [Block.complete, Block.drive]

/-- `ByteFail(wait)` written out. -/
theorem Block.byteFail_eq : b.byteFail wait =
    { b with
      failByte := byteIndex b.nbit, failBit := bitIndex b.nbit, failWait := wait
      lineOe := true, lineOut := true
      result := .byteFail, done := true, busy := false, phase := .idle } := rfl

/-- `FrameEnd(v)` on a valid frame, written out. -/
theorem Block.frameEnd_valid (h : frameValid v = true) : b.frameEnd v =
    { b with
      lineOe := true, lineOut := true, data0 := frameData0 v, data1 := frameByte v 4
      result := .ok, done := true, busy := false, phase := .idle } := by
  simp [Block.frameEnd, h, Block.complete, Block.release, Block.drive]

/-- `FrameEnd(v)` on an invalid frame, written out. -/
theorem Block.frameEnd_invalid (h : frameValid v = false) : b.frameEnd v =
    { b with
      lineOe := true, lineOut := true
      result := .cksumMismatch, done := true, busy := false, phase := .idle } := by
  simp [Block.frameEnd, h, Block.complete, Block.release, Block.drive]

/-- The last bit's edge ends the frame. -/
theorem Block.bitEdge_last (c : BitVec 16) (h : b.nbit = 39#6) :
    b.bitEdge p c = { b with sr := shiftIn b.sr (classify p (width p c)) }.frameEnd
      (shiftIn b.sr (classify p (width p c))) := by
  simp [Block.bitEdge, h]

/-- Any other bit's edge begins the next bit's guard. -/
theorem Block.bitEdge_more (c : BitVec 16) (h : b.nbit ≠ 39#6) :
    b.bitEdge p c =
      { b with
        sr := shiftIn b.sr (classify p (width p c)), nbit := b.nbit + 1#6
        phase := .bitWaitGuard, cnt := counterOf p.budget } := by
  simp [Block.bitEdge, h, Block.enterDelay]

theorem Block.acquire_idle (h : b.busy = false) : b.acquire p = b.start p := by
  simp [Block.acquire, h]

theorem Block.acquire_busy (h : b.busy = true) : b.acquire p = b := by
  simp [Block.acquire, h]

/-- An accepted START writes every field of the block: what was there before does not matter. -/
theorem Block.start_eq_start (b b' : Block) : b.start p = b'.start p := rfl

end Ends

/-! ### What the frame's end does to each field that does not depend on the check -/

section FrameEndFields
variable (v : BitVec 40) (b : Block)
@[simp] theorem Block.frameEnd_phase : (b.frameEnd v).phase = .idle := by
  cases h : frameValid v <;> simp [Block.frameEnd_valid, Block.frameEnd_invalid, h]
@[simp] theorem Block.frameEnd_cnt : (b.frameEnd v).cnt = b.cnt := by
  cases h : frameValid v <;> simp [Block.frameEnd_valid, Block.frameEnd_invalid, h]
@[simp] theorem Block.frameEnd_sr : (b.frameEnd v).sr = b.sr := by
  cases h : frameValid v <;> simp [Block.frameEnd_valid, Block.frameEnd_invalid, h]
@[simp] theorem Block.frameEnd_nbit : (b.frameEnd v).nbit = b.nbit := by
  cases h : frameValid v <;> simp [Block.frameEnd_valid, Block.frameEnd_invalid, h]
@[simp] theorem Block.frameEnd_lineOe : (b.frameEnd v).lineOe = true := by
  cases h : frameValid v <;> simp [Block.frameEnd_valid, Block.frameEnd_invalid, h]
@[simp] theorem Block.frameEnd_lineOut : (b.frameEnd v).lineOut = true := by
  cases h : frameValid v <;> simp [Block.frameEnd_valid, Block.frameEnd_invalid, h]
@[simp] theorem Block.frameEnd_busy : (b.frameEnd v).busy = false := by
  cases h : frameValid v <;> simp [Block.frameEnd_valid, Block.frameEnd_invalid, h]
@[simp] theorem Block.frameEnd_done : (b.frameEnd v).done = true := by
  cases h : frameValid v <;> simp [Block.frameEnd_valid, Block.frameEnd_invalid, h]
@[simp] theorem Block.frameEnd_ackStage : (b.frameEnd v).ackStage = b.ackStage := by
  cases h : frameValid v <;> simp [Block.frameEnd_valid, Block.frameEnd_invalid, h]
@[simp] theorem Block.frameEnd_failByte : (b.frameEnd v).failByte = b.failByte := by
  cases h : frameValid v <;> simp [Block.frameEnd_valid, Block.frameEnd_invalid, h]
@[simp] theorem Block.frameEnd_failBit : (b.frameEnd v).failBit = b.failBit := by
  cases h : frameValid v <;> simp [Block.frameEnd_valid, Block.frameEnd_invalid, h]
@[simp] theorem Block.frameEnd_failWait : (b.frameEnd v).failWait = b.failWait := by
  cases h : frameValid v <;> simp [Block.frameEnd_valid, Block.frameEnd_invalid, h]
end FrameEndFields

/-! ### Codes -/

/-- Every phase's code is one of the nine, and decodes to that phase's instruction. -/
theorem Phase.ofCode_code (ph : Phase) : Phase.ofCode ph.code = some ph := by
  cases ph <;> rfl

theorem Phase.code_injective {a b : Phase} (h : a.code = b.code) : a = b := by
  have := Phase.ofCode_code a
  rw [h, Phase.ofCode_code] at this
  exact (Option.some.inj this).symm

end Sys2Proof.Machine
end

