-- ==== Sys2Proof/Laws/Step.lean ====
section
/-! SUPPORT. What a step can do, said once. -/

namespace Sys2Proof.Machine

/-! ### The next event -/

section Inputs
variable {s : State} {c : ClockCycle} {cs : List ClockCycle} {w : BitVec 38}

theorem State.nextEvent_nil (h : s.inputs = []) : s.nextEvent = .tick := by simp [State.nextEvent, h]

theorem State.nextEvent_reset (h : s.inputs = c :: cs) (hr : c.reset = true) : s.nextEvent = .reset := by
  simp [State.nextEvent, h, hr]

theorem State.nextEvent_access (h : s.inputs = c :: cs) (hr : c.reset = false) (ha : c.access = some w) :
    s.nextEvent = .access w := by simp [State.nextEvent, h, hr, ha]

theorem State.nextEvent_tick (h : s.inputs = c :: cs) (hr : c.reset = false) (ha : c.access = none)
    (ht : c.tick = true) : s.nextEvent = .tick := by simp [State.nextEvent, h, hr, ha, ht]

theorem State.afterEvent_nil (h : s.inputs = []) : s.afterEvent = s := by simp [State.afterEvent, h]

theorem State.afterEvent_reset (h : s.inputs = c :: cs) (hr : c.reset = true) :
    s.afterEvent = { s with inputs := cs } := by simp [State.afterEvent, h, hr]

theorem State.afterEvent_access (h : s.inputs = c :: cs) (hr : c.reset = false) (ha : c.access = some w) :
    s.afterEvent = { s with inputs := if c.tick then ClockCycle.plainTick :: cs else cs } := by
  cases ht : c.tick <;> simp [State.afterEvent, h, hr, ha, ht]

theorem State.afterEvent_noAccess (h : s.inputs = c :: cs) (ha : c.access = none) :
    s.afterEvent = { s with inputs := cs } := by
  cases hr : c.reset <;> simp [State.afterEvent, h, hr, ha]

end Inputs

/-! ### The instruction of a tick -/

/-- The instruction that a phase's code decodes to (30_encoding.md rule R74). -/
def Phase.instr : Phase → Instr
  | .idle => .idle
  | .startLow1 => .startLow1
  | .startLow2 => .startLow2
  | .startReady => .startReady
  | .ackWaitLow => .ackWaitLow
  | .ackWaitHigh => .ackWaitHigh
  | .ackWaitRelease => .ackWaitRelease
  | .bitWaitGuard => .bitWaitGuard
  | .bitMeasureHigh => .bitMeasureHigh

theorem decode_phase_code (ph : Phase) : decode (.ph ph.code) = .ok ph.instr := by
  cases ph <;> rfl

/-- What a tick does to the block, at a tick whose sample, if it takes one, is `smp`. -/
def Block.tick (p : Params) (smp : Level) (b : Block) : Block :=
  match b.phase with
  | .idle => b
  | .startLow1 => delayTick (Block.enterDelay .startLow2 p.tLow2) b
  | .startLow2 => delayTick (fun b => (b.enterDelay .startReady p.tReady).drive true true) b
  | .startReady => delayTick (fun b => (b.drive false b.lineOut).enterWait p .ackWaitLow) b
  | .ackWaitLow => waitTick true (fun _ => Block.enterWait p .ackWaitHigh) (Block.ackFail p .awaitingAckLow) smp b
  | .ackWaitHigh =>
    waitTick false (fun _ => Block.enterWait p .ackWaitRelease) (Block.ackFail p .awaitingAckHigh) smp b
  | .ackWaitRelease =>
    waitTick true (fun _ => Block.enterWait p .bitWaitGuard) (Block.ackFail p .awaitingBusRelease) smp b
  | .bitWaitGuard => waitTick false (fun _ => Block.enterWait p .bitMeasureHigh) (Block.byteFail false) smp b
  | .bitMeasureHigh => waitTick true (Block.bitEdge p) (Block.byteFail true) smp b

/-- The whole effect of a tick: the block's, and one sample taken in a wait phase. -/
def State.tick (s : State) : State :=
  { (if s.blk.phase.isWait then s.takeSample else s) with blk := s.blk.tick s.params s.sample }

section TickFields
variable (s : State)
@[simp] theorem State.tick_params : s.tick.params = s.params := by
  unfold State.tick; split <;> simp
@[simp] theorem State.tick_blk : s.tick.blk = s.blk.tick s.params s.sample := rfl
@[simp] theorem State.tick_inputs : s.tick.inputs = s.inputs := by
  unfold State.tick; split <;> simp
@[simp] theorem State.tick_reads : s.tick.reads = s.reads := by
  unfold State.tick; split <;> simp
end TickFields

theorem exec_phase_instr (s : State) : exec s.blk.phase.instr s = .next s.tick := by
  rcases s with ⟨p, b, i, l, u, d, r⟩
  rcases b with ⟨ph, _, _, _, _, _, _, _, _, _, _, _, _, _, _⟩
  cases ph <;> cases l <;> rfl

/-! ### A step -/

section Steps
variable {s : State}

theorem step_of_fetch {c : Code} (hp : s.params.Legal) (hf : s.fetch = some c) :
    step s = runDecoded (decode c) s.afterEvent := by
  simp [step, hp, hf]

/-- A step in which the next event is a tick. -/
theorem step_tick (hp : s.params.Legal) (h : s.nextEvent = .tick) : step s = .next s.afterEvent.tick := by
  rw [step_of_fetch hp (c := .ph s.blk.phase.code) (by simp [State.fetch, h]), decode_phase_code]
  show exec s.blk.phase.instr s.afterEvent = _
  rw [← State.afterEvent_blk, exec_phase_instr]

/-- A step in which the next event is a host access. -/
theorem step_access {w : BitVec 38} (hp : s.params.Legal) (h : s.nextEvent = .access w) :
    step s = exec (decodeHT w) s.afterEvent := by
  rw [step_of_fetch hp (c := .ht w) (by simp [State.fetch, h])]; rfl

/-- A step in which the next event is a reset. -/
theorem step_reset (hp : s.params.Legal) (h : s.nextEvent = .reset) :
    step s = .next s.applyReset.afterEvent := by
  simp [step, hp, State.fetch, State.otherEvent, h]

/-- A step of a cycle in which nothing falls. -/
theorem step_quiet (hp : s.params.Legal) (h : s.nextEvent = .quiet) : step s = .next s.afterEvent := by
  simp [step, hp, State.fetch, State.otherEvent, h]

/-- What a host transaction can do: nothing, return a word, or start an acquisition. -/
theorem exec_decodeHT_cases (w : BitVec 38) (s : State) :
    exec (decodeHT w) s = .next s ∨ (∃ r, exec (decodeHT w) s = .next (s.respond (readReg r s.blk))) ∨
    (htW w = true ∧ regOf (htA w) = .ctrl ∧ startBit (htD w) = true ∧
      exec (decodeHT w) s = .next (s.onBlock (Block.acquire s.params))) := by
  unfold decodeHT
  split
  case h_1 h1 h2 =>
    split
    · next h3 => exact .inr (.inr ⟨h1, h2, h3, rfl⟩)
    · exact .inl rfl
  case h_2 => exact .inl rfl
  case h_3 => exact .inl rfl
  case h_4 => exact .inl rfl
  case h_5 => exact .inl rfl
  case h_6 => exact .inr (.inl ⟨.ctrl, rfl⟩)
  case h_7 => exact .inr (.inl ⟨.status, rfl⟩)
  case h_8 => exact .inr (.inl ⟨.data0, rfl⟩)
  case h_9 => exact .inr (.inl ⟨.data1, rfl⟩)
  case h_10 => exact .inr (.inl ⟨.unmapped, rfl⟩)

/-- All that a step can do to the block, whatever the event: nothing, a reset, an accepted START, or the engine's
tick. -/
theorem step_blk_cases {t : State} (h : step s = .next t) :
    t.params = s.params ∧
    (t.blk = s.blk ∨ (s.nextEvent = .reset ∧ t.blk = Block.reset) ∨
     (∃ w, s.nextEvent = .access w ∧ htW w = true ∧ regOf (htA w) = .ctrl ∧ startBit (htD w) = true ∧
        s.blk.busy = false ∧ t.blk = s.blk.start s.params) ∨
     (s.nextEvent = .tick ∧ t.blk = s.blk.tick s.params s.sample)) := by
  have hp : s.params.Legal := by
    by_contra hn; simp [step, hn] at h
  have hsample : s.afterEvent.sample = s.sample := by
    simp [State.sample]
  cases he : s.nextEvent with
  | reset =>
    rw [step_reset hp he] at h
    cases h
    simp
  | quiet =>
    rw [step_quiet hp he] at h
    cases h
    simp
  | tick =>
    rw [step_tick hp he] at h
    cases h
    simp [hsample]
  | access w =>
    rw [step_access hp he] at h
    rcases exec_decodeHT_cases w s.afterEvent with e | ⟨r, e⟩ | ⟨h1, h2, h3, e⟩
    · rw [e] at h; cases h; simp
    · rw [e] at h; cases h; simp
    · rw [e] at h; cases h
      cases hb : s.blk.busy with
      | true => simp [Block.acquire_busy, hb]
      | false => simp [Block.acquire_idle, hb, h1, h2, h3]

end Steps

/-! ### Runs -/

section Runs
variable {s t : State}

@[simp] theorem run_zero (s : State) : run 0 s = .next s := rfl

/-- A step that goes on, then the rest of a run. -/
theorem run_succ (n : Nat) (h : step s = .next t) : run (n + 1) s = run n t := by
  simp only [run, h]

/-- A run that goes on begins with a step that goes on. -/
theorem run_succ_inv {n : Nat} (h : run (n + 1) s = .next t) : ∃ u, step s = .next u ∧ run n u = .next t := by
  rw [run] at h
  split at h
  · exact ⟨_, ‹_›, h⟩
  · cases h
  · cases h

theorem run_one (s : State) : run 1 s = step s := by
  rw [run]; cases step s <;> rfl

/-- A run in two parts. -/
theorem run_add {m : Nat} (n : Nat) (h : run m s = .next t) : run (m + n) s = run n t := by
  induction m generalizing s with
  | zero => cases h; simp
  | succ m ih =>
    obtain ⟨u, hu, h'⟩ := run_succ_inv h
    rw [Nat.succ_add, run_succ _ hu, ih h']

/-- A tick neither reads nor writes the schedule. -/
theorem State.tick_withInputs (s : State) (cs : List ClockCycle) :
    ({ s with inputs := cs } : State).tick = { s.tick with inputs := cs } := by
  rcases s with ⟨p, b, i, l, u, d, r⟩
  cases h : b.phase.isWait <;> cases l <;> simp [State.tick, State.takeSample, State.sample, h]

theorem plainTicks_succ (n : Nat) : plainTicks (n + 1) = ClockCycle.plainTick :: plainTicks n := rfl

theorem plainTicks_add (m n : Nat) : plainTicks (m + n) = plainTicks m ++ plainTicks n := by
  simp only [plainTicks, List.replicate_add]

/-- A step whose cycle holds a tick alone. -/
theorem step_plainTick {cs : List ClockCycle} (hp : s.params.Legal) (h : s.inputs = ClockCycle.plainTick :: cs) :
    step s = .next { s.tick with inputs := cs } := by
  rw [step_tick hp (State.nextEvent_tick h rfl rfl rfl), State.afterEvent_noAccess h rfl, State.tick_withInputs]

/-- A run over a schedule that begins with `n` ticks is `n` ticks, one after the other. -/
theorem run_plainTicks {n : Nat} {cs : List ClockCycle} (hp : s.params.Legal) (h : s.inputs = plainTicks n ++ cs) :
    run n s = .next { State.tick^[n] s with inputs := cs } := by
  induction n generalizing s with
  | zero => simp only [plainTicks, List.replicate_zero, List.nil_append] at h; simp [← h]
  | succ n ih =>
    rw [plainTicks_succ, List.cons_append] at h
    have ht := step_plainTick hp h
    have hi : ∀ (k : Nat) (u : State) (x : List ClockCycle),
        ({ State.tick^[k] { u with inputs := x } with inputs := cs } : State) =
          { State.tick^[k] u with inputs := cs } := by
      intro k
      induction k with
      | zero => intro u x; rfl
      | succ k ihk =>
        intro u x
        rw [Function.iterate_succ_apply, Function.iterate_succ_apply, State.tick_withInputs, ihk]
    rw [run_succ n ht, ih (by simpa using hp) rfl, hi, Function.iterate_succ_apply]

/-- One more step of a run behind the host's interface, of any machine. -/
theorem core_run_succ (M : Host.Core) (n : Nat) (s : M.State) :
    (∀ t, M.step s = .next t → M.run (n + 1) s = M.run n t) ∧
    (∀ r, M.step s = .fault r → M.run (n + 1) s = .fault r) ∧
    (∀ r, M.step s = .refused r → M.run (n + 1) s = .refused r) := by
  refine ⟨fun t h => ?_, fun r h => ?_, fun r h => ?_⟩ <;> simp only [Host.Core.run, h]

/-- `run` is the host's own run of this machine. -/
theorem run_eq_core_run (n : Nat) (s : State) : run n s = Sys2Proof.core.run n s := by
  induction n generalizing s with
  | zero => rfl
  | succ n ih =>
    obtain ⟨h1, h2, h3⟩ := core_run_succ Sys2Proof.core n s
    cases hs : step s with
    | next t => exact (run_succ n hs).trans ((ih t).trans (h1 t hs).symm)
    | fault r =>
      refine Eq.trans ?_ (h2 r hs).symm
      simp only [run, hs]; rfl
    | refused r =>
      refine Eq.trans ?_ (h3 r hs).symm
      simp only [run, hs]; rfl

end Runs

end Sys2Proof.Machine
end

