-- ==== Sys2Proof/Laws/HostProgram.lean ====
section
/-! SUPPORT. What a host access and a host read do. -/

namespace Sys2Proof.Machine

/-- An access by the host runs its transaction, with the schedule as it was. -/
theorem hostAccess_eq {s : State} (w : BitVec 38) (hp : s.params.Legal) :
    hostAccess w s = exec (decodeHT w) s := by
  unfold hostAccess
  rw [step_access (s := { s with inputs := ClockCycle.plainAccess w :: s.inputs }) hp
    (State.nextEvent_access rfl rfl rfl), State.afterEvent_access rfl rfl rfl]
  rfl

/-- `RD <reg>` returns the register at its offset. -/
theorem exec_rd (r : HostReg) (s : State) : exec (decodeHT (rd r)) s = .next (s.respond (regRead r.offset s.blk)) := by
  have hD : htD (rd r) = 0#32 := htD_htWord ..
  have hA : htA (rd r) = r.offset := htA_htWord ..
  have hW : htW (rd r) = false := htW_htWord ..
  unfold decodeHT
  rw [hW, hA, hD]
  unfold regRead
  cases regOf r.offset <;> rfl

/-- The host's read of a register, after a gap that goes on. -/
theorem hostRead_eq {gap : Nat} {s u : State} (r : HostReg) (hu : run gap s = .next u) (hp : u.params.Legal) :
    hostRead gap r s = some (regRead r.offset u.blk, u.respond (regRead r.offset u.blk)) := by
  simp only [hostRead, hu, hostAccess_eq _ hp, exec_rd, State.respond_reads]

end Sys2Proof.Machine
end

