-- ==== Sys2Proof/Laws/PerInstr.lean ====
section
/-! SUPPORT. Statements about every instruction as syntax, one lemma a constructor.

`MatchesRow`: the word of a well-formed instruction matches that instruction's row of the opcode table
(30_encoding.md rules R73 and R74). -/

namespace Sys2Proof.Laws.MatchesRow

def Statement (i : Instr) : Prop := i.WellFormed = true → (rowOf i).Matches (encode i) = true

/-- A word with given bits 37, 36:34 and 0 matches the mask 0x3C00000001 or, without bit 0, the mask 0x3C00000000. -/
theorem and_mask (w : Bool) (a : BitVec 5) (d : Word) (mask : BitVec 38) :
    htWord w a d &&& mask = htWord (w && htW mask) (a &&& htA mask) (d &&& htD mask) := by
  conv_lhs => rw [← htWord_fields mask]
  apply BitVec.eq_of_getLsbD_eq
  intro i hi
  simp only [htWord, BitVec.getLsbD_and, BitVec.getLsbD_append, BitVec.getLsbD_ofBool]
  split
  · rfl
  · split
    · rfl
    · cases w <;> cases htW mask <;> simp

theorem and_one (d : Word) : d &&& 1#32 = if d.getLsbD 0 then 1#32 else 0#32 := by
  apply BitVec.eq_of_getLsbD_eq
  intro i hi
  cases h : d.getLsbD 0 <;> cases i <;> simp_all

theorem a_and_sel (a : BitVec 5) (k : BitVec 3) (h : selBits a = k) : a &&& 0x1C#5 = k ++ 0#2 := by
  subst h; revert a; decide

theorem a_and_top (a : BitVec 5) (h : a.getLsbD 4 = true) : a &&& 0x10#5 = 0x10#5 := by
  revert a; decide

theorem acquire (a : BitVec 5) (d : Word) : Statement (.acquire a d) := by
  intro h
  simp only [Instr.WellFormed, Bool.and_eq_true, beq_iff_eq] at h
  simp only [rowOf, encode, Row.Matches, beq_iff_eq, and_mask]
  rw [show htD 0x3C00000001#38 = 1#32 from rfl, and_one, h.2,
    show htA 0x3C00000001#38 = 0x1C#5 from rfl, a_and_sel a _ h.1]
  rfl
theorem wrCtrlNop (a : BitVec 5) (d : Word) : Statement (.wrCtrlNop a d) := by
  intro h
  simp only [Instr.WellFormed, Bool.and_eq_true, beq_iff_eq, Bool.not_eq_true'] at h
  simp only [rowOf, encode, Row.Matches, beq_iff_eq, and_mask]
  rw [show htD 0x3C00000001#38 = 1#32 from rfl, and_one, h.2,
    show htA 0x3C00000001#38 = 0x1C#5 from rfl, a_and_sel a _ h.1]
  rfl

/-- The rows that read neither `D[0]` nor `A[1:0]`. -/
theorem sel_row (w : Bool) (a : BitVec 5) (d : Word) (k : BitVec 3) (h : selBits a = k) :
    htWord w a d &&& 0x3C00000000#38 = htWord w (k ++ 0#2) 0#32 := by
  rw [and_mask, show htD 0x3C00000000#38 = 0#32 from rfl, show htA 0x3C00000000#38 = 0x1C#5 from rfl,
    show htW 0x3C00000000#38 = true from rfl, a_and_sel a k h]
  simp

/-- The two unmapped rows, which read `A[4]` only. -/
theorem top_row (w : Bool) (a : BitVec 5) (d : Word) (h : a.getLsbD 4 = true) :
    htWord w a d &&& 0x3000000000#38 = htWord w 0x10#5 0#32 := by
  rw [and_mask, show htD 0x3000000000#38 = 0#32 from rfl, show htA 0x3000000000#38 = 0x10#5 from rfl,
    show htW 0x3000000000#38 = true from rfl, a_and_top a h]
  simp

theorem wrStatus (a : BitVec 5) (d : Word) : Statement (.wrStatus a d) := by
  intro h; simp only [Instr.WellFormed, beq_iff_eq] at h
  simp only [rowOf, encode, Row.Matches, sel_row _ a d _ h]; rfl
theorem wrData0 (a : BitVec 5) (d : Word) : Statement (.wrData0 a d) := by
  intro h; simp only [Instr.WellFormed, beq_iff_eq] at h
  simp only [rowOf, encode, Row.Matches, sel_row _ a d _ h]; rfl
theorem wrData1 (a : BitVec 5) (d : Word) : Statement (.wrData1 a d) := by
  intro h; simp only [Instr.WellFormed, beq_iff_eq] at h
  simp only [rowOf, encode, Row.Matches, sel_row _ a d _ h]; rfl
theorem wrUnmapped (a : BitVec 5) (d : Word) : Statement (.wrUnmapped a d) := by
  intro h; simp only [Instr.WellFormed] at h
  simp only [rowOf, encode, Row.Matches, top_row _ a d h]; rfl
theorem rdCtrl (a : BitVec 5) (d : Word) : Statement (.rdCtrl a d) := by
  intro h; simp only [Instr.WellFormed, beq_iff_eq] at h
  simp only [rowOf, encode, Row.Matches, sel_row _ a d _ h]; rfl
theorem rdStatus (a : BitVec 5) (d : Word) : Statement (.rdStatus a d) := by
  intro h; simp only [Instr.WellFormed, beq_iff_eq] at h
  simp only [rowOf, encode, Row.Matches, sel_row _ a d _ h]; rfl
theorem rdData0 (a : BitVec 5) (d : Word) : Statement (.rdData0 a d) := by
  intro h; simp only [Instr.WellFormed, beq_iff_eq] at h
  simp only [rowOf, encode, Row.Matches, sel_row _ a d _ h]; rfl
theorem rdData1 (a : BitVec 5) (d : Word) : Statement (.rdData1 a d) := by
  intro h; simp only [Instr.WellFormed, beq_iff_eq] at h
  simp only [rowOf, encode, Row.Matches, sel_row _ a d _ h]; rfl
theorem rdUnmapped (a : BitVec 5) (d : Word) : Statement (.rdUnmapped a d) := by
  intro h; simp only [Instr.WellFormed] at h
  simp only [rowOf, encode, Row.Matches, top_row _ a d h]; rfl
theorem idle : Statement .idle := by intro; rfl
theorem startLow1 : Statement .startLow1 := by intro; rfl
theorem startLow2 : Statement .startLow2 := by intro; rfl
theorem startReady : Statement .startReady := by intro; rfl
theorem ackWaitLow : Statement .ackWaitLow := by intro; rfl
theorem ackWaitHigh : Statement .ackWaitHigh := by intro; rfl
theorem ackWaitRelease : Statement .ackWaitRelease := by intro; rfl
theorem bitWaitGuard : Statement .bitWaitGuard := by intro; rfl
theorem bitMeasureHigh : Statement .bitMeasureHigh := by intro; rfl

end Sys2Proof.Laws.MatchesRow
end

