-- ==== Sys2Proof/Tests/Slice0.lean ====
section
/-! SUPPORT. Tests: ill-formed terms refused, words written out from the spec decoded, single steps against
95_test_vectors.md or the rule named, and for every statement with hypotheses a concrete case that meets them. -/

namespace Sys2Proof.Tests

open Sys2Proof.Machine

/-! ### Small states -/

/-- The smallest legal instance: every wait and every delay takes one tick. -/
def tiny : Params where
  tickNs := 1000
  budget := 1
  tLow1 := 1
  tLow2 := 1
  tMinLow := 2
  tReady := 1
  threshNs := 45000
  ackFailRelease := false

/-- The same with two samples a wait. -/
def tiny2 : Params := { tiny with budget := 2 }

/-- A busy block in a phase, its line as that phase has it. -/
def inPhase (ph : Phase) (cnt : BitVec 16) : Block :=
  { Block.reset with
    phase := ph, cnt := cnt, busy := true, lineOe := !ph.isWait
    lineOut := ph != .startLow1 && ph != .startLow2 }

/-- A block after V-L1-2: the frame 32 00 15 00 47, released. -/
def afterOk : Block :=
  { Block.reset with
    lineOe := true, done := true, result := .ok, data0 := 0x00150032#32, data1 := 0x47#8 }

/-- A state of an instance with a block, a schedule and a stimulus. -/
def state (p : Params) (b : Block) (inputs : List ClockCycle) (line : List Level) : State where
  params := p
  blk := b
  inputs := inputs
  line := line
  pulledUp := true
  draws := 0
  reads := []

/-- A state of the default instance with an empty schedule. -/
def small (b : Block) (line : List Level) : State := state Params.default b [] line

/-- Whether an outcome is a next state with a property. -/
def nextIs (o : Host.Outcome State Fault Refusal) (q : State → Bool) : Bool :=
  match o with
  | .next t => q t
  | .fault _ => false
  | .refused _ => false

theorem nextIs_exists {o : Host.Outcome State Fault Refusal} {q : State → Bool} (h : nextIs o q = true) :
    ∃ t, o = .next t ∧ q t = true := by
  cases o with
  | next t => exact ⟨t, rfl, h⟩
  | fault r => cases h
  | refused r => cases h

/-- The block a step of an instruction leaves has this STATUS, counter and frame registers. -/
def leaves (i : Instr) (s : State) (status : Word) (cnt : BitVec 16) (data0 : Word) (data1 : Byte) : Bool :=
  nextIs (exec i s) fun t =>
    statusWord t.blk == status && t.blk.cnt == cnt && t.blk.data0 == data0 && t.blk.data1 == data1

/-- A read of `Q` that leaves the block as it was. -/
def answers (i : Instr) (s : State) (q : Word) : Bool :=
  nextIs (exec i s) fun t => t.reads == [q] && t.blk == s.blk

/-! ### WellFormed: each row's check refuses an ill-formed term (30_encoding.md rule R73) -/

theorem test_wf_acquire_needs_offset : (Instr.acquire 0x04#5 1#32).WellFormed = false := by decide
theorem test_wf_acquire_needs_start : (Instr.acquire 0x00#5 2#32).WellFormed = false := by decide
theorem test_wf_acquire : (Instr.acquire 0x03#5 3#32).WellFormed = true := by decide
theorem test_wf_wrCtrlNop_needs_offset : (Instr.wrCtrlNop 0x08#5 0#32).WellFormed = false := by decide
theorem test_wf_wrCtrlNop_needs_no_start : (Instr.wrCtrlNop 0x00#5 1#32).WellFormed = false := by decide
theorem test_wf_wrStatus : (Instr.wrStatus 0x08#5 0#32).WellFormed = false := by decide
theorem test_wf_wrData0 : (Instr.wrData0 0x0C#5 0#32).WellFormed = false := by decide
theorem test_wf_wrData1 : (Instr.wrData1 0x1C#5 0#32).WellFormed = false := by decide
theorem test_wf_wrUnmapped : (Instr.wrUnmapped 0x0F#5 0#32).WellFormed = false := by decide
theorem test_wf_rdCtrl : (Instr.rdCtrl 0x10#5 0#32).WellFormed = false := by decide
theorem test_wf_rdStatus : (Instr.rdStatus 0x00#5 0#32).WellFormed = false := by decide
theorem test_wf_rdData0 : (Instr.rdData0 0x04#5 0#32).WellFormed = false := by decide
theorem test_wf_rdData1 : (Instr.rdData1 0x0B#5 0#32).WellFormed = false := by decide
theorem test_wf_rdUnmapped : (Instr.rdUnmapped 0x0C#5 0#32).WellFormed = false := by decide

/-! ### Decoding: a word of every row (95_test_vectors.md V-L2-25; rule R74 for the phases) -/

theorem test_decode_acquire : decode (.ht 0x2300000001#38) = .ok (.acquire 0x03#5 1#32) := by decide
theorem test_decode_wrCtrlNop : decode (.ht 0x20FFFFFFFE#38) = .ok (.wrCtrlNop 0#5 0xFFFFFFFE#32) := by decide
theorem test_decode_wrStatus : decode (.ht 0x2400000001#38) = .ok (.wrStatus 0x04#5 1#32) := by decide
theorem test_decode_wrData0 : decode (.ht 0x2812345678#38) = .ok (.wrData0 0x08#5 0x12345678#32) := by decide
theorem test_decode_wrData1 : decode (.ht 0x2CFFFFFFFF#38) = .ok (.wrData1 0x0C#5 0xFFFFFFFF#32) := by decide
theorem test_decode_wrUnmapped : decode (.ht 0x3C00000001#38) = .ok (.wrUnmapped 0x1C#5 1#32) := by decide
theorem test_decode_rdCtrl : decode (.ht 0x0000000000#38) = .ok (.rdCtrl 0#5 0#32) := by decide
theorem test_decode_rdStatus : decode (.ht 0x0500000000#38) = .ok (.rdStatus 0x05#5 0#32) := by decide
theorem test_decode_rdData0 : decode (.ht 0x0800000000#38) = .ok (.rdData0 0x08#5 0#32) := by decide
theorem test_decode_rdData1 : decode (.ht 0x0FFFFFFFFF#38) = .ok (.rdData1 0x0F#5 0xFFFFFFFF#32) := by decide
theorem test_decode_rdUnmapped : decode (.ht 0x1400000000#38) = .ok (.rdUnmapped 0x14#5 0#32) := by decide
theorem test_decode_idle : decode (.ph 0b0000#4) = .ok .idle := by decide
theorem test_decode_startLow1 : decode (.ph 0b0001#4) = .ok .startLow1 := by decide
theorem test_decode_startLow2 : decode (.ph 0b0010#4) = .ok .startLow2 := by decide
theorem test_decode_startReady : decode (.ph 0b0011#4) = .ok .startReady := by decide
theorem test_decode_ackWaitLow : decode (.ph 0b0100#4) = .ok .ackWaitLow := by decide
theorem test_decode_ackWaitHigh : decode (.ph 0b0101#4) = .ok .ackWaitHigh := by decide
theorem test_decode_ackWaitRelease : decode (.ph 0b0110#4) = .ok .ackWaitRelease := by decide
theorem test_decode_bitWaitGuard : decode (.ph 0b0111#4) = .ok .bitWaitGuard := by decide
theorem test_decode_bitMeasureHigh : decode (.ph 0b1000#4) = .ok .bitMeasureHigh := by decide
theorem test_decode_reserved : decode (.ph 0b1001#4) = .error (.reservedPhase 9#4) := by decide
theorem test_table_words : decodeTableWord 8 0x8 = some .bitMeasureHigh ∧ decodeTableWord 8 0x9 = none ∧
    decodeTableWord 40 0x2000000001 = some (.acquire 0#5 1#32) ∧ decodeTableWord 40 0x4000000000 = none := by decide

/-! ### Host transactions (V-L2-25 to V-L2-28) -/

theorem test_acquire_from_ok : leaves (.acquire 0#5 1#32) (small afterOk []) 0x11000001 30000#16 0#32 0#8 = true := by
  decide
theorem test_acquire_busy : leaves (.acquire 0#5 1#32) (small (inPhase .startLow1 29900#16) [])
    0x11000001 29900#16 0#32 0#8 = true := by decide
theorem test_wrCtrlNop : leaves (.wrCtrlNop 0#5 0xFFFFFFFE#32) (small afterOk [])
    0x30000006 0#16 0x00150032#32 0x47#8 = true := by decide
theorem test_wrStatus : leaves (.wrStatus 4#5 1#32) (small afterOk [])
    0x30000006 0#16 0x00150032#32 0x47#8 = true := by decide
theorem test_wrData0 : leaves (.wrData0 8#5 0x12345678#32) (small Block.reset []) 0x20000000 0#16 0#32 0#8 = true := by
  decide
theorem test_wrData1 : leaves (.wrData1 0xC#5 0xFFFFFFFF#32) (small Block.reset []) 0x20000000 0#16 0#32 0#8 = true := by
  decide
theorem test_wrUnmapped : leaves (.wrUnmapped 0x1C#5 1#32) (small Block.reset []) 0x20000000 0#16 0#32 0#8 = true := by
  decide
theorem test_rdCtrl : answers (.rdCtrl 0#5 0#32) (small afterOk []) 0#32 = true := by decide
theorem test_rdStatus : answers (.rdStatus 5#5 0#32) (small afterOk []) 0x30000006#32 = true := by decide
theorem test_rdData0 : answers (.rdData0 8#5 0#32) (small afterOk []) 0x00150032#32 = true := by decide
theorem test_rdData1 : answers (.rdData1 0xF#5 0xFFFFFFFF#32) (small afterOk []) 0x00000047#32 = true := by decide
theorem test_rdUnmapped : answers (.rdUnmapped 0x14#5 0#32) (small afterOk []) 0#32 = true := by decide

/-! ### Ticks -/

/-- V-L2-33. -/
theorem test_idle : leaves .idle (small Block.reset [false]) 0x20000000 0#16 0#32 0#8 = true := by decide
/-- V-L2-1, tick 1. -/
theorem test_startLow1_count : leaves .startLow1 (small (inPhase .startLow1 30000#16) [])
    0x11000001 29999#16 0#32 0#8 = true := by decide
/-- V-L2-1, tick 30000. -/
theorem test_startLow1_end : leaves .startLow1 (small (inPhase .startLow1 1#16) [])
    0x12000001 20000#16 0#32 0#8 = true := by decide
/-- V-L2-1, tick 50000. -/
theorem test_startLow2_end : leaves .startLow2 (small (inPhase .startLow2 1#16) [])
    0x33000001 40#16 0#32 0#8 = true := by decide
/-- V-L2-1, tick 50040. -/
theorem test_startReady_end : leaves .startReady (small (inPhase .startReady 1#16) [])
    0x24000001 100#16 0#32 0#8 = true := by decide
/-- V-L2-4, N = 99: the edge at the last sample. -/
theorem test_ackWaitLow_edge : leaves .ackWaitLow (small (inPhase .ackWaitLow 1#16) [false])
    0x25000001 100#16 0#32 0#8 = true := by decide
/-- V-L1-4: the empty stimulus times out, with the line left in input mode. -/
theorem test_ackWaitLow_timeout : leaves .ackWaitLow (small (inPhase .ackWaitLow 1#16) [])
    0x2000010A 1#16 0#32 0#8 = true := by decide
/-- V-L2-5, N = 100: the compare wins. -/
theorem test_ackWaitHigh_edge : leaves .ackWaitHigh (small (inPhase .ackWaitHigh 1#16) [true])
    0x26000001 100#16 0#32 0#8 = true := by decide
/-- V-L2-5, N = 101. -/
theorem test_ackWaitHigh_timeout : leaves .ackWaitHigh (small (inPhase .ackWaitHigh 1#16) [false])
    0x2000020A 1#16 0#32 0#8 = true := by decide
/-- V-L2-6, N = 100. -/
theorem test_ackWaitRelease_edge : leaves .ackWaitRelease (small (inPhase .ackWaitRelease 1#16) [false])
    0x27000001 100#16 0#32 0#8 = true := by decide
/-- V-L2-6, N = 101. -/
theorem test_ackWaitRelease_timeout : leaves .ackWaitRelease (small (inPhase .ackWaitRelease 1#16) [true])
    0x2000030A 1#16 0#32 0#8 = true := by decide
/-- V-L2-13: with `P_ACK_FAIL_RELEASE` the line is released too. -/
theorem test_ackFail_release : leaves .ackWaitLow
    (state { Params.default with ackFailRelease := true } (inPhase .ackWaitLow 1#16) [] [true])
    0x3000010A 1#16 0#32 0#8 = true := by decide
/-- V-L2-7, N = 100. -/
theorem test_bitWaitGuard_edge : leaves .bitWaitGuard (small (inPhase .bitWaitGuard 1#16) [true])
    0x28000001 100#16 0#32 0#8 = true := by decide
/-- V-L1-5: bit 3 of byte 2, the guard wait. -/
theorem test_bitWaitGuard_timeout :
    leaves .bitWaitGuard (small { inPhase .bitWaitGuard 1#16 with nbit := 19#6 } [false])
      0x3003200E 1#16 0#32 0#8 = true := by decide
/-- V-L1-2 (V-L2-23): the last bit, a 70-sample high, gives the frame 32 00 15 00 47. -/
theorem test_bitMeasureHigh_ok :
    leaves .bitMeasureHigh (small { inPhase .bitMeasureHigh 31#16 with nbit := 39#6, sr := 0x19000A8023#40 } [false])
      0x30000006 31#16 0x00150032#32 0x47#8 = true := by decide
/-- V-L2-17, the last row: the measurement of bit 39 times out. -/
theorem test_bitMeasureHigh_timeout :
    leaves .bitMeasureHigh (small { inPhase .bitMeasureHigh 1#16 with nbit := 39#6 } [true])
      0x300F400E 1#16 0#32 0#8 = true := by decide

/-! ### The operations -/

/-- V-L2-14, around the threshold. -/
theorem test_classify : classify Params.default 45 = false ∧ classify Params.default 46 = true := by decide
/-- V-L2-15. -/
theorem test_classify_500ns : classify { Params.default with tickNs := 500 } 90 = false ∧
    classify { Params.default with tickNs := 500 } 91 = true := by decide
/-- V-L2-8: the counter at the edge of a pulse of 1, 27 and 100 samples. -/
theorem test_width : width Params.default 100#16 = 1 ∧ width Params.default 74#16 = 27 ∧
    width Params.default 1#16 = 100 := by decide
/-- V-L2-21. -/
theorem test_checksum : checksum 0xFF#8 0xFF#8 0x01#8 0x01#8 = 0x00#8 ∧
    checksum 0xFF#8 0xFF#8 0xFF#8 0xFF#8 = 0xFC#8 := by decide
/-- V-L2-16. -/
theorem test_frame_bytes : frameData0 0x3200150047#40 = 0x00150032#32 ∧ frameByte 0x3200150047#40 4 = 0x47#8 := by
  decide
/-- V-L2-22: the frame 01 02 03 04 0A. -/
theorem test_frame_lanes : frameValid 0x010203040A#40 = true ∧ frameData0 0x010203040A#40 = 0x04030201#32 := by decide
/-- V-L1-3 and V-L1-5: what READ_FRAME returns. -/
theorem test_readResult : readResult 0x30000012#32 0#32 0#32 = some .checksumMismatch ∧
    readResult 0x3003200E#32 0#32 0#32 = some (.byteFailure 2#3 3#3) := by decide
/-- V-L2-3: an illegal instance. -/
theorem test_illegal_instance : ¬ Params.Legal { Params.default with tLow1 := 10000, tLow2 := 5000 } := by decide

/-! ### Witnesses: for each statement with hypotheses, a case that meets them -/

theorem witness_DecodeOfEncode : (Instr.acquire 0x03#5 0xFFFFFFFF#32).WellFormed = true ∧
    Instr.bitMeasureHigh.WellFormed = true := by decide

theorem witness_EncodeOfDecode : decode (.ht 0x3FFFFFFFFF#38) = .ok (.wrUnmapped 0x1F#5 0xFFFFFFFF#32) := by decide

theorem witness_DecoderFindsTheUniqueRow :
    (0#4).toNat ≤ 8 ∧ (8#4).toNat ≤ 8 ∧ 9 ≤ (9#4).toNat ∧ 9 ≤ (15#4).toNat := by decide

/-- The boundary offsets of 20_memory.md rule R52. -/
theorem witness_LowAddressBitsAreIgnored :
    regOf 0x00#5 = .ctrl ∧ regOf 0x03#5 = .ctrl ∧ regOf 0x04#5 = .status ∧ regOf 0x07#5 = .status ∧
    regOf 0x08#5 = .data0 ∧ regOf 0x0B#5 = .data0 ∧ regOf 0x0C#5 = .data1 ∧ regOf 0x0F#5 = .data1 ∧
    regOf 0x10#5 = .unmapped ∧ regOf 0x1F#5 = .unmapped := by decide

/-- A cycle that holds a START and a tick. -/
def both : ClockCycle := { reset := false, access := some 0x2000000001#38, tick := true }

/-- A cycle that holds neither. -/
def nothing : ClockCycle := { reset := false, access := none, tick := false }

/-- All four clauses: an access with a tick in its cycle, a tick alone, the empty schedule and a quiet cycle. -/
theorem witness_StepRunsTheDecodedInstruction :
    Params.default.Legal ∧
    (state Params.default Block.reset [both] []).inputs = [both] ∧ both.reset = false ∧
    both.access = some 0x2000000001#38 ∧ decode (.ht 0x2000000001#38) = .ok (.acquire 0#5 1#32) ∧
    ClockCycle.plainTick.reset = false ∧ ClockCycle.plainTick.access = none ∧ ClockCycle.plainTick.tick = true ∧
    decode (.ph Block.reset.phase.code) = .ok .idle ∧ State.reset.inputs = [] ∧
    nothing.reset = false ∧ nothing.access = none ∧ nothing.tick = false := by decide

theorem witness_HostAccessPrecedesTheTick :
    tiny.Legal ∧ (state tiny Block.reset [both] []).inputs = [both] ∧
    ∃ t, exec (decodeHT 0x2000000001#38) (state tiny Block.reset [ClockCycle.plainTick] []) = .next t ∧
      decode (.ph t.blk.phase.code) = .ok .startLow1 :=
  ⟨by decide, rfl, _, rfl, rfl⟩

/-- V-L2-31, with an access and a tick in the reset cycle. -/
theorem witness_ResetSetsEveryField :
    Params.default.Legal ∧
    (state Params.default (inPhase .startLow1 29900#16) [{ both with reset := true }] []).inputs =
      [{ both with reset := true }] ∧ ({ both with reset := true } : ClockCycle).reset = true := by decide

/-- The ends of every range of rule R7, and one value past an end. -/
theorem witness_IllegalInstanceRefused :
    tiny.Legal ∧
    Params.Legal { tiny with budget := 65535, tLow1 := 65535, tLow2 := 65535, tMinLow := 131070, tReady := 65535 } ∧
    ¬ Params.Legal { tiny with budget := 0 } ∧ ¬ Params.Legal { tiny with tMinLow := 3 } ∧
    ¬ Params.Legal { tiny with tReady := 65536 } := by decide

theorem witness_EveryStepGoesOn : State.reset.params.Legal := by decide

theorem witness_PlacedWordRunsNext :
    State.reset.params.Legal ∧
    (8 < 38 ∧ 0x2000000001 < 2 ^ 38 ∧ decodeTableWord 38 0x2000000001 = some (.acquire 0#5 1#32)) ∧
    (4 ≤ 8 ∧ decodeTableWord 4 8 = some .bitMeasureHigh ∧
      Phase.ofCode (BitVec.ofNat 4 8) = some .bitMeasureHigh) := by decide

theorem witness_AcquireStartsAnIdleBlock :
    (small (inPhase .startLow1 1#16) []).blk.busy = true ∧ (small afterOk []).blk.busy = false := by decide

/-- Both clauses: a START of an idle block, and a write of each other kind. -/
theorem witness_OnlyAnAcceptedStartActs :
    (0x2000000001#38).getLsbD 37 = true ∧
    ((0x2000000001#38).extractLsb' 34 3 = 0#3 ∧ (0x2000000001#38).getLsbD 0 = true ∧ afterOk.busy = false) ∧
    ¬ ((0x2000000000#38).extractLsb' 34 3 = 0#3 ∧ (0x2000000000#38).getLsbD 0 = true ∧ afterOk.busy = false) ∧
    ¬ ((0x2400000001#38).extractLsb' 34 3 = 0#3 ∧ (0x2400000001#38).getLsbD 0 = true ∧ afterOk.busy = false) := by
  decide

/-- Both cases of the last clause: an acquisition under way, and one that ended in a mismatch. -/
theorem witness_ReadsReturnTheirRegister :
    ((state tiny (inPhase .bitMeasureHigh 1#16) [] [true]).Safe ∧ (inPhase .bitMeasureHigh 1#16).busy = true) ∧
    ((state tiny { Block.reset with lineOe := true, done := true, result := .cksumMismatch } [] []).Safe) :=
  ⟨⟨⟨by decide, by decide, by decide, by decide, by decide⟩, by decide⟩,
    ⟨by decide, by decide, by decide, by decide, by decide⟩⟩

theorem witness_ReadsHaveNoSideEffect :
    (0x0400000000#38).getLsbD 37 = false ∧ (0x0500000000#38).getLsbD 37 = false ∧
    (0x0500000000#38).extractLsb' 34 3 = (0x0400000000#38).extractLsb' 34 3 := by decide

theorem witness_BusyBlockIgnoresTheHost :
    (inPhase .startLow1 29900#16).busy = true ∧
    ∃ t, exec (decodeHT 0x2000000001#38) (small (inPhase .startLow1 29900#16) []) = .next t := ⟨by decide, _, rfl⟩

theorem witness_IdleTicksChangeNothing :
    (state tiny afterOk (plainTicks 3 ++ [both]) []).params.Legal ∧ afterOk.phase = .idle ∧
    (state tiny afterOk (plainTicks 3 ++ [both]) []).inputs = plainTicks 3 ++ [both] := by decide

theorem witness_StartSequenceTiming :
    tiny.Legal ∧ (inPhase .startLow1 1#16).phase = .startLow1 ∧
    (inPhase .startLow1 1#16).cnt = BitVec.ofNat 16 tiny.tLow1 ∧ (inPhase .startLow1 1#16).lineOe = true ∧
    (inPhase .startLow1 1#16).lineOut = false ∧
    (state tiny (inPhase .startLow1 1#16) (plainTicks 3 ++ [ClockCycle.plainTick]) [false]).inputs =
      plainTicks (tiny.tLow1 + tiny.tLow2 + tiny.tReady) ++ [ClockCycle.plainTick] ∧
    (state tiny (inPhase .startLow1 1#16) (plainTicks 3 ++ [ClockCycle.plainTick]) [false]).line = [false] := by
  decide

/-- A listed level, a used-up stimulus and a sensor under no law. -/
theorem witness_SampleIsTheNextLevelOrFree :
    (small Block.reset [false]).line = [false] ∧ (small Block.reset []).line = [] ∧
    (small Block.reset []).pulledUp = true ∧ State.reset.line = [] ∧ State.reset.pulledUp = false := by decide

theorem witness_WaitTicksCountDown :
    (inPhase .ackWaitLow 2#16).cnt ≠ 1#16 ∧ (small (inPhase .ackWaitLow 2#16) [true]).sample = true ∧
    (small (inPhase .ackWaitHigh 2#16) [false]).sample = false := by decide

theorem witness_WaitEdgesEnterTheNextWait :
    (small (inPhase .ackWaitLow 1#16) [false]).sample = false ∧
    (small (inPhase .ackWaitHigh 1#16) [true]).sample = true := by decide

theorem witness_AckTimeoutsRecordTheStage :
    (inPhase .ackWaitLow 1#16).cnt = 1#16 ∧ (small (inPhase .ackWaitLow 1#16) []).sample = true ∧
    (small (inPhase .ackWaitHigh 1#16) [false]).sample = false := by decide

theorem witness_BitTimeoutsRecordThePosition :
    (inPhase .bitWaitGuard 1#16).cnt = 1#16 ∧ (small (inPhase .bitWaitGuard 1#16) [false]).sample = false ∧
    (small (inPhase .bitMeasureHigh 1#16) []).sample = true := by decide

/-- Both clauses at their boundary, `N = P_BUDGET` and `N = P_BUDGET + 1`, with a budget of 2. -/
theorem witness_RunLengthLaw :
    tiny2.Legal ∧ (inPhase .bitMeasureHigh 2#16).phase.levelToLeave = some true ∧
    (inPhase .bitMeasureHigh 2#16).cnt = BitVec.ofNat 16 tiny2.budget ∧
    (2 ≤ tiny2.budget ∧
      (state tiny2 (inPhase .bitMeasureHigh 2#16) (plainTicks 2) [true, false]).line =
        List.replicate (2 - 1) true ++ (!true) :: [] ∧
      (state tiny2 (inPhase .bitMeasureHigh 2#16) (plainTicks 2) [true, false]).inputs = plainTicks 2 ++ []) ∧
    (tiny2.budget + 1 ≤ 3 ∧
      (state tiny2 (inPhase .bitMeasureHigh 2#16) (plainTicks 2) [true, true]).line =
        List.replicate (3 - 1) true ++ [] ∧
      (state tiny2 (inPhase .bitMeasureHigh 2#16) (plainTicks 2) [true, true]).inputs =
        plainTicks tiny2.budget ++ []) := by decide

/-- The tie, and the widths on both sides of it. -/
theorem witness_ClassifyIsStrict :
    45 * Params.default.tickNs = Params.default.threshNs ∧ (45 : Nat) ≤ 45 ∧ (46 : Nat) ≤ 46 := by decide

/-- The last position of a stream of 40 bits, and the first. -/
theorem witness_ShiftPlacesTheStream : (List.replicate 40 true).length = 40 ∧
    0 < (List.replicate 40 true).length ∧ 39 < (List.replicate 40 true).length := by decide

theorem witness_MeasuredBitIsShiftedIn :
    (small (inPhase .bitMeasureHigh 55#16) [false]).sample = false ∧ (inPhase .bitMeasureHigh 55#16).nbit ≠ 39#6 := by
  decide

/-- A valid and an invalid frame: V-L1-2 and V-L1-3, whose last bits are a 1 and a 0. -/
theorem witness_LastBitEndsTheFrame :
    let s := small { inPhase .bitMeasureHigh 31#16 with nbit := 39#6, sr := 0x19000A8023#40 } [false]
    let u := small { inPhase .bitMeasureHigh 74#16 with nbit := 39#6, sr := 0x19000A8024#40 } [false]
    (s.sample = false ∧ s.blk.nbit = 39#6 ∧
      0x3200150047#40 = ((s.blk.sr <<< 1) |||
        if (s.params.budget - s.blk.cnt.toNat + 1) * s.params.tickNs > s.params.threshNs then 1#40 else 0#40) ∧
      (0x32 + 0x00 + 0x15 + 0x00) % 256 = 0x47) ∧
    (u.sample = false ∧ u.blk.nbit = 39#6 ∧ u.blk.busy = true ∧
      0x3200150048#40 = ((u.blk.sr <<< 1) |||
        if (u.params.budget - u.blk.cnt.toNat + 1) * u.params.tickNs > u.params.threshNs then 1#40 else 0#40) ∧
      (0x32 + 0x00 + 0x15 + 0x00) % 256 ≠ 0x48) := by decide

/-- The invariant of a busy block in a wait phase, in parts. -/
theorem witness_safe_parts :
    tiny.Legal ∧ RuleR39 (inPhase .bitMeasureHigh 1#16) ∧ CounterInRange tiny (inPhase .bitMeasureHigh 1#16) ∧
    LineFollowsPhase (inPhase .bitMeasureHigh 1#16) ∧ FailByteInFrame (inPhase .bitMeasureHigh 1#16) :=
  ⟨by decide, by decide, by decide, by decide, by decide⟩

theorem witness_EveryStepKeepsSafety : (state tiny (inPhase .bitMeasureHigh 1#16) [] [true]).Safe := witness_safe_parts

/-- The last clause of `LastBitEndsTheFrame` asks for a safe state too. -/
theorem witness_LastBitEndsTheFrame_safe :
    (small { inPhase .bitMeasureHigh 74#16 with nbit := 39#6, sr := 0x19000A8024#40 } [false]).Safe :=
  ⟨by decide, by decide, by decide, by decide, by decide⟩

theorem witness_RuleR39HoldsOnEveryRun :
    ∃ t, run 2 (state tiny Block.reset [both] []) = .next t ∧ t.blk.phase = .startLow2 := ⟨_, rfl, rfl⟩

/-- Both clauses: a timeout sets DONE, a reset clears it. -/
theorem witness_DoneChangesOnlyAsRuled :
    ((state tiny (inPhase .bitMeasureHigh 1#16) [] [true]).Safe ∧
      ∃ t, step (state tiny (inPhase .bitMeasureHigh 1#16) [] [true]) = .next t ∧ t.blk.done = true) ∧
    ((state tiny afterOk [ClockCycle.plainReset] []).Safe ∧ afterOk.done = true ∧
      ∃ t, step (state tiny afterOk [ClockCycle.plainReset] []) = .next t ∧ t.blk.done = false) :=
  ⟨⟨witness_safe_parts, _, rfl, rfl⟩,
    ⟨⟨by decide, by decide, by decide, by decide, by decide⟩, rfl, _, rfl, rfl⟩⟩

theorem witness_FrameRegistersChangeOnlyAsRuled :
    ∃ t, step (state tiny afterOk [both] []) = .next t ∧ t.blk.data0 ≠ afterOk.data0 := ⟨_, rfl, by decide⟩

theorem witness_PhasesFollowTheirOrder :
    (state tiny (inPhase .bitMeasureHigh 1#16) [] [false]).Safe ∧
    ∃ t, step (state tiny (inPhase .bitMeasureHigh 1#16) [] [false]) = .next t ∧ t.blk.phase = .bitWaitGuard :=
  ⟨witness_safe_parts, _, rfl, rfl⟩

/-- All three clauses, with the phases on both sides of the boundary. -/
theorem witness_SamplesOnlyInWaitPhases :
    (∃ t, step (state tiny (inPhase .ackWaitLow 1#16) [] [true]) = .next t) ∧
    (state tiny (inPhase .ackWaitLow 1#16) [] [true]).nextEvent = .tick ∧
    4 ≤ (inPhase .ackWaitLow 1#16).phase.code.toNat ∧
    (∃ t, step (state tiny (inPhase .ackWaitLow 1#16) [] []) = .next t) ∧
    (∃ t, step (state tiny (inPhase .startReady 1#16) [] [true]) = .next t) ∧
    (inPhase .startReady 1#16).phase.code.toNat < 4 :=
  ⟨⟨_, rfl⟩, by decide, by decide, ⟨_, rfl⟩, ⟨_, rfl⟩, by decide⟩

theorem witness_DrivenPhasesIgnoreTheSensor :
    (inPhase .startReady 1#16).phase.code.toNat < 4 ∧
    ∃ t, step (state tiny (inPhase .startReady 1#16) [] [true]) = .next t := ⟨by decide, _, rfl⟩

/-- From reset and from a finished acquisition. -/
theorem witness_AcquisitionsAreIndependent :
    let s₁ := state tiny Block.reset [both] [true]
    let s₂ := state tiny afterOk [both] [true]
    s₁.params.Legal ∧ s₂.params = s₁.params ∧ s₁.blk.busy = false ∧ s₂.blk.busy = false ∧
    (0x2000000001#38).getLsbD 37 = true ∧ (0x2000000001#38).extractLsb' 34 3 = 0#3 ∧
    (0x2000000001#38).getLsbD 0 = true ∧
    s₁.inputs = [{ reset := false, access := some 0x2000000001#38, tick := true }] ∧ s₂.inputs = s₁.inputs ∧
    s₂.line = s₁.line ∧ s₂.pulledUp = s₁.pulledUp ∧ s₂.draws = s₁.draws := by decide

/-- The shortest acquisition (V-L2-29, `P_BUDGET = 1`): every wait ends at its first sample and every bit is a 0. -/
theorem witness_AcquisitionDecodesTheWaveform :
    let bits := List.replicate 40 (1, 1)
    let s := state tiny Block.reset
      ({ reset := false, access := some acquireWord, tick := false } :: plainTicks 86 ++ []) (wave 0 1 1 bits ++ false :: [])
    s.params.Legal ∧ s.blk.busy = false ∧ 0 + 1 ≤ s.params.budget ∧
    (∀ x ∈ bits, 1 ≤ x.1 ∧ x.1 ≤ s.params.budget ∧ 1 ≤ x.2 ∧ x.2 ≤ s.params.budget) ∧ bits.length = 40 ∧
    86 = s.params.startTicks + (0 + 1) + 1 + 1 + (bits.map fun x => x.1 + x.2).sum ∧
    (∀ j, ∀ hj : j < bits.length,
      (0#40).getLsbD (39 - j) = decide ((bits[j]).2 * s.params.tickNs > s.params.threshNs)) := by
  decide

theorem witness_EveryAcquisitionEnds :
    let s := state tiny (inPhase .startLow1 1#16) (plainTicks 86 ++ []) []
    s.Safe ∧ s.blk.busy = true ∧ s.inputs = plainTicks 86 ++ [] ∧ NoReset (plainTicks 86) ∧
    s.params.startTicks + 83 * s.params.budget ≤ ticksIn (plainTicks 86) :=
  ⟨⟨by decide, by decide, by decide, by decide, by decide⟩, rfl, rfl, by decide, by decide⟩

/-- Both clauses: the all-zero frame of V-L2-22, which completes at tick 53301, and V-L1-2's frame, which has
ten 1 bits. -/
theorem witness_NominalAcquisitionTiming :
    let nominal (bits : List Bool) : List Level := wave 20 80 80 (bits.map fun b => (50, if b then 70 else 27))
    let start : ClockCycle := { reset := false, access := some acquireWord, tick := false }
    let zeros := List.replicate 40 false
    let bits := (List.range 40).map fun n => (0x3200150047#40).getLsbD (39 - n)
    let s := state Params.default Block.reset (start :: plainTicks 53301 ++ []) (nominal zeros ++ false :: [])
    let u := state Params.default Block.reset (start :: plainTicks 53731 ++ []) (nominal bits ++ false :: [])
    (s.params = Params.default ∧ s.blk.busy = false ∧ zeros.length = 40 ∧
      53301 = 50040 + 21 + 80 + 80 + 40 * 50 + 27 * zeros.count false + 70 * zeros.count true ∧
      s.line = nominal zeros ++ false :: [] ∧ s.inputs = start :: plainTicks 53301 ++ []) ∧
    (u.params = Params.default ∧ u.blk.busy = false ∧ bits.count true = 10 ∧
      u.line = nominal bits ++ false :: [] ∧ u.inputs = start :: plainTicks 53731 ++ []) :=
  ⟨⟨rfl, rfl, by decide, by decide, rfl, rfl⟩, ⟨rfl, rfl, by decide, rfl, rfl⟩⟩

/-- The same shortest acquisition: an OK frame after `T_S + 83` ticks. -/
theorem witness_AFrameTakesAtLeast :
    let s := state tiny (inPhase .startLow1 1#16) (plainTicks 86) (wave 0 1 1 (List.replicate 40 (1, 1)) ++ [false])
    s.params.Legal ∧ s.blk.phase = .startLow1 ∧ s.blk.busy = true ∧ s.blk.cnt = BitVec.ofNat 16 s.params.tLow1 ∧
    s.blk.nbit = 0#6 ∧ s.blk.result = .none ∧ 86 ≤ stepsIn s.inputs ∧
    ∃ t, run 86 s = .next t ∧ (t.blk.result == .ok) = true :=
  ⟨by decide, rfl, rfl, rfl, rfl, rfl, by decide, nextIs_exists (q := fun t => t.blk.result == .ok) (by decide +kernel)⟩

/-- A schedule just long enough, with several polls and gaps before the three reads. -/
theorem witness_ReadFrameReturns :
    let s := state tiny Block.reset (plainTicks 91 ++ []) []
    s.Safe ∧ s.blk.busy = false ∧ s.inputs = plainTicks 91 ++ [] ∧
    s.params.startTicks + 83 * s.params.budget ≤ [0, 1, 85].sum ∧ [0, 1, 85].sum + 1 + 0 + 4 ≤ 91 :=
  ⟨⟨by decide, by decide, by decide, by decide, by decide⟩, rfl, rfl, by decide, by decide⟩

/-- WAIT_DONE's test: it passes after V-L1-2, and fails after a START, so that POLL repeats. -/
theorem witness_PollRepeatsUntilItsTest :
    (state tiny afterOk (plainTicks 1) []).params.Legal ∧
    (∃ u, run 1 (state tiny afterOk (plainTicks 1) []) = .next u ∧
      regRead HostReg.status.offset u.blk &&& 3#32 = 2#32) ∧
    (∃ u, run 1 (state tiny (inPhase .startLow1 1#16) (plainTicks 1) []) = .next u ∧
      regRead HostReg.status.offset u.blk &&& 3#32 ≠ 2#32) :=
  ⟨by decide, ⟨_, rfl, by decide⟩, ⟨_, rfl, by decide⟩⟩

end Sys2Proof.Tests
end

section
/-! PROOFS. The scope of the machine (00_scope.md): what a transaction word does, which instruction a step runs, which
parameters a step refuses, and the defaults. -/

namespace Sys2Proof.Machine

/-! ### A transaction word is a register access (rules R10, R72 and R73) -/

section Transactions
variable {w : BitVec 38}

/-- Every row with `W = 0` returns the register that the offset selects. -/
theorem exec_decodeHT_read (h : htW w = false) (s : State) :
    exec (decodeHT w) s = .next (s.respond (regRead (htA w) s.blk)) := by
  unfold decodeHT regRead
  rw [h]
  cases regOf (htA w) <;> rfl

/-- Every row with `W = 1` writes the register that the offset selects; only CTRL's two rows look at the data. -/
theorem exec_decodeHT_write (h : htW w = true) (s : State) :
    exec (decodeHT w) s = .next (s.onBlock (regWrite s.params (htA w) (htD w))) := by
  unfold decodeHT State.onBlock regWrite
  rw [h]
  cases regOf (htA w) with
  | ctrl => cases startBit (htD w) <;> rfl
  | status => rfl
  | data0 => rfl
  | data1 => rfl
  | unmapped => rfl

end Transactions

/-- Settles O19: the read rows and the write rows, each at the fields of the word. -/
theorem transactionsAreRegisterAccesses : Obligations.TransactionsAreRegisterAccesses := by
  intro a d s
  constructor
  · rw [exec_decodeHT_read (htW_htWord false a d), htA_htWord]
    rfl
  · rw [exec_decodeHT_write (htW_htWord true a d), htA_htWord, htD_htWord]
    rfl

/-! ### The instruction a step runs (rules R5, R60 and R61) -/

section Steps
variable {s : State}

theorem State.nextEvent_quiet {c : ClockCycle} {cs : List ClockCycle} (h : s.inputs = c :: cs)
    (hr : c.reset = false) (ha : c.access = none) (ht : c.tick = false) : s.nextEvent = .quiet := by
  simp [State.nextEvent, h, hr, ha, ht]

theorem State.fetch_access {w : BitVec 38} (h : s.nextEvent = .access w) : s.fetch = some (.ht w) := by
  simp [State.fetch, h]

theorem State.fetch_tick (h : s.nextEvent = .tick) : s.fetch = some (.ph s.blk.phase.code) := by
  simp [State.fetch, h]

/-- Around the instruction it decodes, a step only takes the event off the schedule. -/
theorem step_of_decode {c : Code} {i : Instr} (hp : s.params.Legal) (hf : s.fetch = some c)
    (hd : decode c = .ok i) : step s = exec i s.afterEvent := by
  rw [step_of_fetch hp hf, hd]
  rfl

/-- With legal parameters every event leads to a next state (rules R67 and R220). -/
theorem step_goes_on (hp : s.params.Legal) : ∃ t, step s = .next t := by
  cases he : s.nextEvent with
  | reset => exact ⟨_, step_reset hp he⟩
  | tick => exact ⟨_, step_tick hp he⟩
  | quiet => exact ⟨_, step_quiet hp he⟩
  | access w =>
    cases hw : htW w with
    | false => exact ⟨_, (step_access hp he).trans (exec_decodeHT_read hw _)⟩
    | true => exact ⟨_, (step_access hp he).trans (exec_decodeHT_write hw _)⟩

theorem step_of_not_legal (hp : ¬ s.params.Legal) : step s = .refused .illegalInstance := by
  rw [step, if_neg hp]

end Steps

/-- Settles O7: the event of each kind of cycle fetches its code, and taking it leaves the schedule stated. -/
theorem stepRunsTheDecodedInstruction : Obligations.StepRunsTheDecodedInstruction := by
  intro s hp
  refine ⟨fun c cs w i h hr ha hd => ?access, fun c cs i h hr ha ht hd => ?tick, fun i h hd => ?pastSchedule,
    fun c cs h hr ha ht => ?quiet⟩
  case access =>
    rw [step_of_decode hp (State.fetch_access (State.nextEvent_access h hr ha)) hd, State.afterEvent_access h hr ha]
    rfl
  case tick =>
    rw [step_of_decode hp (State.fetch_tick (State.nextEvent_tick h hr ha ht)) hd, State.afterEvent_noAccess h ha]
  case pastSchedule =>
    rw [step_of_decode hp (State.fetch_tick (State.nextEvent_nil h)) hd, State.afterEvent_nil h]
  case quiet =>
    rw [step_quiet hp (State.nextEvent_quiet h hr ha ht), State.afterEvent_noAccess h ha]

/-! ### Legal parameters (rules R6 and R7) -/

/-- The constraints of rule R7 in one row; the last one, `P_THRESH_NS >= 0`, holds of every natural number. -/
theorem legal_iff_constraints (p : Params) :
    p.Legal ↔ 1 ≤ p.tickNs ∧ 1 ≤ p.budget ∧ p.budget ≤ 65535 ∧ 1 ≤ p.tLow1 ∧ p.tLow1 ≤ 65535 ∧
      1 ≤ p.tLow2 ∧ p.tLow2 ≤ 65535 ∧ p.tMinLow ≤ p.tLow1 + p.tLow2 ∧ 1 ≤ p.tReady ∧ p.tReady ≤ 65535 := by
  simp only [Params.Legal, and_assoc, Nat.zero_le, and_true]

/-- Settles O10: the constraints are `Legal`; with them a step goes on, without them it is refused. -/
theorem illegalInstanceRefused : Obligations.IllegalInstanceRefused := by
  intro s
  rw [← legal_iff_constraints]
  refine ⟨fun hp hrefused => ?_, step_of_not_legal⟩
  obtain ⟨t, ht⟩ := step_goes_on hp
  rw [ht] at hrefused
  cases hrefused

/-- The defaults of rule R6 meet the constraints of rule R7. -/
theorem default_legal : Params.default.Legal := by decide

/-- Settles O51: each default is read off the model's, which are legal and are those after reset. -/
theorem defaultInstance : Obligations.DefaultInstance :=
  ⟨rfl, rfl, rfl, rfl, rfl, rfl, rfl, rfl, default_legal, rfl⟩

end Sys2Proof.Machine
end

section
/-! PROOFS. The state of the block (10_state.md): what a tick can do, the invariants every step keeps, what changes DONE
and the frame registers, when the line is sampled, and the STATUS word. -/

namespace Sys2Proof.Machine

/-! ### All that a tick can do -/

/-- The wait that the end of a wait enters, where the end does no more than that (rules R140 to R142 and R160). -/
def Phase.nextWait : Phase → Option Phase
  | .ackWaitLow => some .ackWaitHigh
  | .ackWaitHigh => some .ackWaitRelease
  | .ackWaitRelease => some .bitWaitGuard
  | .bitWaitGuard => some .bitMeasureHigh
  | _ => none

/-- The stage that the timeout of an ACK wait records (rule R143). -/
def Phase.ackStage : Phase → Option AckStage
  | .ackWaitLow => some .awaitingAckLow
  | .ackWaitHigh => some .awaitingAckHigh
  | .ackWaitRelease => some .awaitingBusRelease
  | _ => none

/-- Which of a bit's two waits the timeout of a bit wait records (rule R165). -/
def Phase.bitWait : Phase → Option Bool
  | .bitWaitGuard => some false
  | .bitMeasureHigh => some true
  | _ => none

/-- `TickTo p smp b b'`: a tick takes block `b` to `b'`, in a wait phase with sample `smp`. One constructor per branch
of the phases' rules, with its guards. -/
inductive Block.TickTo (p : Params) (smp : Level) (b : Block) : Block → Prop
  | idle (hph : b.phase = .idle) : TickTo p smp b b
  | count (hph : b.phase ≠ .idle) (hL : b.phase.levelToLeave ≠ some (!smp)) (hc : b.cnt ≠ 1#16) :
      TickTo p smp b { b with cnt := b.cnt - 1#16 }
  | endLow1 (hph : b.phase = .startLow1) (hc : b.cnt = 1#16) : TickTo p smp b (b.enterDelay .startLow2 p.tLow2)
  | endLow2 (hph : b.phase = .startLow2) (hc : b.cnt = 1#16) :
      TickTo p smp b ((b.enterDelay .startReady p.tReady).drive true true)
  | endReady (hph : b.phase = .startReady) (hc : b.cnt = 1#16) :
      TickTo p smp b ((b.drive false b.lineOut).enterWait p .ackWaitLow)
  | edge {ph : Phase} (hph : b.phase.nextWait = some ph) (hL : b.phase.levelToLeave = some (!smp)) :
      TickTo p smp b (b.enterWait p ph)
  | bitEdge (hph : b.phase = .bitMeasureHigh) (hs : smp = false) (hn : b.nbit ≠ 39#6) :
      TickTo p smp b ({ b with sr := shiftIn b.sr (classify p (width p b.cnt)), nbit := b.nbit + 1#6 }.enterWait p
        .bitWaitGuard)
  | frameEnd (hph : b.phase = .bitMeasureHigh) (hs : smp = false) (hn : b.nbit = 39#6) :
      TickTo p smp b ({ b with sr := shiftIn b.sr (classify p (width p b.cnt)) }.frameEnd
        (shiftIn b.sr (classify p (width p b.cnt))))
  | ackTimeout {stage : AckStage} (hph : b.phase.ackStage = some stage) (hL : b.phase.levelToLeave = some smp)
      (hc : b.cnt = 1#16) : TickTo p smp b (b.ackFail p stage)
  | bitTimeout {wait : Bool} (hph : b.phase.bitWait = some wait) (hL : b.phase.levelToLeave = some smp)
      (hc : b.cnt = 1#16) : TickTo p smp b (b.byteFail wait)

section Ticks
variable {p : Params} {smp : Level} {b : Block} {ph : Phase}

theorem Block.tickTo_delayTick {onEnd : Block → Block} (hph : b.phase = ph) (hidle : ph ≠ .idle)
    (hL : ph.levelToLeave = none) (hend : b.cnt = 1#16 → b.TickTo p smp (onEnd b)) :
    b.TickTo p smp (delayTick onEnd b) := by
  subst hph
  rcases delayTick_cases onEnd b with ⟨hc, e⟩ | ⟨hc, e⟩ <;> rw [e]
  · exact hend hc
  · exact .count hidle (by simp [hL]) hc

theorem Block.tickTo_waitTick {L : Level} {onEdge : BitVec 16 → Block → Block} {onTimeout : Block → Block}
    (hph : b.phase = ph) (hidle : ph ≠ .idle) (hL : ph.levelToLeave = some L)
    (hedge : b.phase.levelToLeave = some (!smp) → smp = !L → b.TickTo p smp (onEdge b.cnt b))
    (htimeout : b.phase.levelToLeave = some smp → b.cnt = 1#16 → b.TickTo p smp (onTimeout b)) :
    b.TickTo p smp (waitTick L onEdge onTimeout smp b) := by
  subst hph
  rcases waitTick_cases L onEdge onTimeout smp b with ⟨hs, e⟩ | ⟨rfl, hc, e⟩ | ⟨rfl, hc, e⟩ <;> rw [e]
  · have hs' : smp = !L := Bool.eq_not.2 hs
    exact hedge (by simp [hL, hs']) hs'
  · exact htimeout hL hc
  · exact .count hidle (by simp [hL]) hc

/-- The edge that ends a measurement: the next bit's guard, or after bit 39 the end of the frame (rule R161). -/
theorem Block.tickTo_bitEdge (hph : b.phase = .bitMeasureHigh) (hs : smp = false) :
    b.TickTo p smp (b.bitEdge p b.cnt) := by
  by_cases hn : b.nbit = 39#6
  · rw [Block.bitEdge_last p b b.cnt hn]; exact .frameEnd hph hs hn
  · rw [Block.bitEdge_more p b b.cnt hn]; exact .bitEdge hph hs hn

/-- All that a tick can do to the block. -/
theorem Block.tickTo_tick (p : Params) (smp : Level) (b : Block) : b.TickTo p smp (b.tick p smp) := by
  unfold Block.tick
  cases hph : b.phase with
  | idle => exact .idle hph
  | startLow1 => exact tickTo_delayTick hph nofun rfl (.endLow1 hph)
  | startLow2 => exact tickTo_delayTick hph nofun rfl (.endLow2 hph)
  | startReady => exact tickTo_delayTick hph nofun rfl (.endReady hph)
  | ackWaitLow =>
    exact tickTo_waitTick hph nofun rfl (fun hL _ => .edge (hph ▸ rfl) hL) (.ackTimeout (hph ▸ rfl))
  | ackWaitHigh =>
    exact tickTo_waitTick hph nofun rfl (fun hL _ => .edge (hph ▸ rfl) hL) (.ackTimeout (hph ▸ rfl))
  | ackWaitRelease =>
    exact tickTo_waitTick hph nofun rfl (fun hL _ => .edge (hph ▸ rfl) hL) (.ackTimeout (hph ▸ rfl))
  | bitWaitGuard =>
    exact tickTo_waitTick hph nofun rfl (fun hL _ => .edge (hph ▸ rfl) hL) (.bitTimeout (hph ▸ rfl))
  | bitMeasureHigh =>
    exact tickTo_waitTick hph nofun rfl (fun _ hs => tickTo_bitEdge hph hs) (.bitTimeout (hph ▸ rfl))

end Ticks

/-! ### A running block (rules R39, R42 and R120 to R123) -/

/-- What a safe state asks of the block. -/
def Block.Safe (p : Params) (b : Block) : Prop :=
  RuleR39 b ∧ CounterInRange p b ∧ LineFollowsPhase b ∧ FailByteInFrame b

theorem State.safe_iff (s : State) : s.Safe ↔ s.params.Legal ∧ s.blk.Safe s.params := Iff.rfl

/-- A safe block in the middle of an acquisition: nothing of an outcome is set yet. -/
structure Block.Running (p : Params) (b : Block) : Prop where
  phase : b.phase ≠ .idle
  busy : b.busy = true
  done : b.done = false
  result : b.result = .none
  ackStage : b.ackStage = .none
  fail : b.failByte = 0#3 ∧ b.failBit = 0#3 ∧ b.failWait = false
  frame : b.data0 = 0#32 ∧ b.data1 = 0#8
  nbit : b.nbit.toNat ≤ 39
  cnt : 1 ≤ b.cnt.toNat ∧ b.cnt.toNat ≤ b.phase.load p
  line : LineFollowsPhase b

theorem Phase.isWait_iff_code (ph : Phase) : ph.isWait = true ↔ 4 ≤ ph.code.toNat := by
  cases ph <;> decide

theorem Phase.code_le (ph : Phase) : ph.code.toNat ≤ 8 := by
  cases ph <;> decide

theorem Phase.one_le_code {ph : Phase} (h : ph ≠ .idle) : 1 ≤ ph.code.toNat := by
  revert h; cases ph <;> decide

/-- Every phase but IDLE starts from a count that is at least 1 and fits in the counter (rule R7). -/
theorem Phase.load_bounds {p : Params} {ph : Phase} (hp : p.Legal) (h : ph ≠ .idle) :
    1 ≤ ph.load p ∧ ph.load p ≤ 65535 := by
  obtain ⟨-, hbudget, hlow1, hlow2, -, hready, -⟩ := hp
  cases ph with
  | idle => exact absurd rfl h
  | startLow1 => exact hlow1
  | startLow2 => exact hlow2
  | startReady => exact hready
  | _ => exact hbudget

theorem Phase.ne_idle_of_isWait {ph : Phase} (h : ph.isWait = true) : ph ≠ .idle := by
  rintro rfl; cases h

theorem Phase.load_of_isWait {p : Params} {ph : Phase} (h : ph.isWait = true) : ph.load p = p.budget := by
  cases ph <;> cases h <;> rfl

section Running
variable {p : Params} {b : Block}

/-- The line is in input mode exactly in the wait phases. -/
theorem Block.lineOe_false_iff (hph : b.phase ≠ .idle) (hline : LineFollowsPhase b) :
    b.lineOe = false ↔ b.phase.isWait = true := by
  obtain ⟨hlow, hready, hwait⟩ := hline
  refine ⟨fun hoe => ?_, fun h => (hwait h).1⟩
  cases e : b.phase with
  | idle => exact absurd e hph
  | startLow1 => simp [(hlow (.inl e)).1] at hoe
  | startLow2 => simp [(hlow (.inr e)).1] at hoe
  | startReady => simp [(hready e).1] at hoe
  | _ => rfl

theorem Block.Running.safe (h : b.Running p) : b.Safe p := by
  have hranges : BusyRanges b := fun _ =>
    ⟨h.nbit, ⟨Phase.one_le_code h.phase, b.phase.code_le⟩, by
      rw [Block.lineOe_false_iff h.phase h.line, Phase.isWait_iff_code]; simp [b.phase.code_le]⟩
  exact ⟨⟨by simp [BusyIffNotIdle, h.busy, h.phase], by simp [DoneNotBusy, h.done],
      by simp [DoneIffResult, h.done, h.result], fun _ => h.frame, by simp [ChecksumHolds, h.result],
      by simp [AckStageIffAckFail, h.ackStage, h.result], fun _ => h.fail, hranges⟩,
    fun _ => h.cnt, h.line, by simp [FailByteInFrame, h.fail]⟩

theorem Block.Safe.running (h : b.Safe p) (hph : b.phase ≠ .idle) : b.Running p := by
  obtain ⟨⟨hbusy, hdone, hres, hframe, -, hack, hfail, hranges⟩, hcnt, hline, -⟩ := h
  have busy : b.busy = true := hbusy.2 hph
  have done : b.done = false := Bool.eq_false_iff.2 fun e => by simp [hdone e] at busy
  have result : b.result = .none := by
    by_contra hr
    simp [hres.2 hr] at done
  have ackStage : b.ackStage = .none := by
    by_contra ha
    simp [hack.1 ha] at result
  exact ⟨hph, busy, done, result, ackStage, hfail (by simp [result]), hframe (by simp [result]), (hranges busy).1,
    hcnt hph, hline⟩

/-- An idle block that records a completion's outcome. -/
theorem Block.safe_of_completed (hph : b.phase = .idle) (hbusy : b.busy = false) (hdone : b.done = true)
    (hres : b.result ≠ .none) (hframe : NoPartialFrame b) (hsum : ChecksumHolds b) (hack : AckStageIffAckFail b)
    (hfail : FailFieldsOfByteFail b) (hbyte : FailByteInFrame b) : b.Safe p :=
  ⟨⟨by simp [BusyIffNotIdle, hph, hbusy], fun _ => hbusy, by simp [DoneIffResult, hdone, hres], hframe, hsum, hack,
      hfail, by simp [BusyRanges, hbusy]⟩,
    by simp [CounterInRange, hph], by simp [LineFollowsPhase, hph, Phase.isWait, Phase.levelToLeave], hbyte⟩

/-! ### What keeps a block running -/

theorem Block.Running.line_low1 (h : b.Running p) (hph : b.phase = .startLow1) :
    b.lineOe = true ∧ b.lineOut = false := by
  obtain ⟨hlow, -, -⟩ := h.line
  exact hlow (.inl hph)

theorem Block.Running.line_ready (h : b.Running p) (hph : b.phase = .startReady) :
    b.lineOe = true ∧ b.lineOut = true := by
  obtain ⟨-, hready, -⟩ := h.line
  exact hready hph

theorem Block.Running.line_wait (h : b.Running p) (hph : b.phase.isWait = true) :
    b.lineOe = false ∧ b.lineOut = true := by
  obtain ⟨-, -, hwait⟩ := h.line
  exact hwait hph

theorem Block.Running.count (h : b.Running p) (hc : b.cnt ≠ 1#16) :
    Block.Running p { b with cnt := b.cnt - 1#16 } := by
  obtain ⟨hlow, hhigh⟩ := h.cnt
  have hne : b.cnt.toNat ≠ 1 := fun e => hc (BitVec.eq_of_toNat_eq e)
  have hpred := cnt_pred_toNat hlow
  exact { h with cnt := ⟨by dsimp only; omega, by dsimp only; omega⟩ }

/-- Entering a phase with its own count, on the line that the phase wants. -/
theorem Block.Running.enter {ph : Phase} {oe : Bool} {out : Level} (h : b.Running p) (hp : p.Legal)
    (hph : ph ≠ .idle) (hline : LineFollowsPhase ((b.drive oe out).enterDelay ph (ph.load p))) :
    ((b.drive oe out).enterDelay ph (ph.load p)).Running p := by
  obtain ⟨hlow, hhigh⟩ := Phase.load_bounds hp hph
  have hcnt : (counterOf (ph.load p)).toNat = ph.load p := counterOf_toNat hhigh
  exact { h with phase := hph, line := hline, cnt := ⟨hcnt.symm ▸ hlow, hcnt.le⟩ }

/-- A wait is entered in input mode with `line_out = 1`. -/
theorem Block.Running.enterWait {ph : Phase} {oe : Bool} {out : Level} (h : b.Running p) (hp : p.Legal)
    (hoe : oe = false) (hout : out = true) (hph : ph.isWait = true) :
    ((b.drive oe out).enterWait p ph).Running p := by
  have hload : ph.load p = p.budget := Phase.load_of_isWait hph
  have hline : LineFollowsPhase ((b.drive oe out).enterDelay ph (ph.load p)) := by
    refine ⟨fun hlow => ?_, fun hready => ?_, fun _ => ⟨hoe, hout⟩⟩
    · rcases hlow with rfl | rfl <;> cases hph
    · cases hready; cases hph
  rw [Block.enterWait_eq, ← hload]
  exact h.enter hp (Phase.ne_idle_of_isWait hph) hline

theorem Block.Running.withSr (h : b.Running p) (sr : BitVec 40) : Block.Running p { b with sr := sr } :=
  { h with }

theorem Block.Running.nextBit (h : b.Running p) (hn : b.nbit ≠ 39#6) :
    Block.Running p { b with nbit := b.nbit + 1#6 } := by
  have hle := h.nbit
  have hne : b.nbit.toNat ≠ 39 := fun e => hn (BitVec.eq_of_toNat_eq e)
  exact { h with nbit := by dsimp only; rw [BitVec.toNat_add_of_lt] <;> simp <;> omega }

/-- An accepted START. -/
theorem Block.running_start (hp : p.Legal) : (b.start p).Running p := by
  obtain ⟨hlow, hhigh⟩ := Phase.load_bounds hp (ph := .startLow1) (by decide)
  have hcnt : (counterOf p.tLow1).toNat = p.tLow1 := counterOf_toNat hhigh
  exact {
    phase := nofun
    busy := rfl, done := rfl, result := rfl, ackStage := rfl, fail := ⟨rfl, rfl, rfl⟩, frame := ⟨rfl, rfl⟩
    nbit := Nat.zero_le 39
    cnt := ⟨hcnt.symm ▸ hlow, hcnt.le⟩
    line := ⟨fun _ => ⟨rfl, rfl⟩, nofun, nofun⟩ }

/-! ### The three ways out of an acquisition -/

theorem Block.Running.safe_ackFail {stage : AckStage} (h : b.Running p) (hs : stage ≠ .none) :
    (b.ackFail p stage).Safe p := by
  rw [Block.ackFail_eq]
  exact Block.safe_of_completed rfl rfl rfl nofun (fun _ => h.frame) nofun ⟨fun _ => rfl, fun _ => hs⟩
    (fun _ => h.fail) (by simp [FailByteInFrame, h.fail])

/-- A bit of the frame is in one of its five bytes (rules R34 and R164). -/
theorem byteIndex_le {n : BitVec 6} (h : n.toNat ≤ 39) : (byteIndex n).toNat ≤ 4 := by
  simp only [byteIndex, BitVec.toNat_ofNat]; omega

theorem Block.Running.safe_byteFail (h : b.Running p) (wait : Bool) : (b.byteFail wait).Safe p := by
  rw [Block.byteFail_eq]
  exact Block.safe_of_completed rfl rfl rfl nofun (fun _ => h.frame) nofun
    (by simp [AckStageIffAckFail, h.ackStage]) (fun hne => absurd rfl hne) (byteIndex_le h.nbit)

theorem checksum_toNat (b0 b1 b2 b3 : Byte) :
    (checksum b0 b1 b2 b3).toNat = (b0.toNat + b1.toNat + b2.toNat + b3.toNat) % 256 := by
  simp only [checksum, BitVec.toNat_add]; omega

/-- Two fields side by side: the upper one `x` sits just above the lower one `y`. -/
theorem extractLsb'_of_append {n k l start : Nat} {w : BitVec n} {x : BitVec k} {y : BitVec l}
    (h : w.extractLsb' start (k + l) = x ++ y) : w.extractLsb' (start + l) k = x ∧ w.extractLsb' start l = y := by
  have hbit : ∀ i < k + l, w.getLsbD (start + i) = (x ++ y).getLsbD i := fun i hi => by
    rw [← h, BitVec.getLsbD_extractLsb']; simp [hi]
  simp only [BitVec.getLsbD_append] at hbit
  constructor <;> ext i hi
  · have := hbit (l + i) (by omega)
    simp_all [Nat.add_assoc]
  · have := hbit i (by omega)
    simp_all

/-- Byte `i` of the frame is in lane `i` of DATA0 (20_memory.md rule R54). -/
theorem frameData0_lanes (v : BitVec 40) :
    (frameData0 v).extractLsb' 0 8 = frameByte v 0 ∧ (frameData0 v).extractLsb' 8 8 = frameByte v 1 ∧
    (frameData0 v).extractLsb' 16 8 = frameByte v 2 ∧ (frameData0 v).extractLsb' 24 8 = frameByte v 3 := by
  have h : (frameData0 v).extractLsb' 0 _ = frameByte v 3 ++ frameByte v 2 ++ frameByte v 1 ++ frameByte v 0 :=
    BitVec.extractLsb'_eq_self
  obtain ⟨h, lane0⟩ := extractLsb'_of_append h
  obtain ⟨h, lane1⟩ := extractLsb'_of_append h
  obtain ⟨lane3, lane2⟩ := extractLsb'_of_append h
  exact ⟨lane0, lane1, lane2, lane3⟩

/-- A valid frame is exposed with its checksum, an invalid one not at all (rule R183). -/
theorem Block.Running.safe_frameEnd (h : b.Running p) (v : BitVec 40) : (b.frameEnd v).Safe p := by
  cases hv : frameValid v with
  | false =>
    rw [Block.frameEnd_invalid v b hv]
    exact Block.safe_of_completed rfl rfl rfl nofun (fun _ => h.frame) nofun
      (by simp [AckStageIffAckFail, h.ackStage]) (fun _ => h.fail) (by simp [FailByteInFrame, h.fail])
  | true =>
    rw [Block.frameEnd_valid v b hv]
    have hsum := checksum_toNat (frameByte v 0) (frameByte v 1) (frameByte v 2) (frameByte v 3)
    rw [eq_of_beq hv] at hsum
    obtain ⟨h0, h1, h2, h3⟩ := frameData0_lanes v
    exact Block.safe_of_completed rfl rfl rfl nofun (fun hne => absurd rfl hne)
      (by simp only [ChecksumHolds, h0, h1, h2, h3, hsum, implies_true])
      (by simp [AckStageIffAckFail, h.ackStage]) (fun _ => h.fail) (by simp [FailByteInFrame, h.fail])

end Running

/-! ### Every step keeps a state safe -/

section Safety
variable {p : Params} {smp : Level} {b b' : Block}

theorem Phase.nextWait_isWait {ph ph' : Phase} (h : ph.nextWait = some ph') :
    ph.isWait = true ∧ ph'.isWait = true := by
  cases ph <;> cases h <;> decide

theorem Phase.ackStage_isWait {ph : Phase} {stage : AckStage} (h : ph.ackStage = some stage) :
    ph.isWait = true ∧ stage ≠ .none := by
  cases ph <;> cases h <;> decide

theorem Phase.bitWait_isWait {ph : Phase} {wait : Bool} (h : ph.bitWait = some wait) : ph.isWait = true := by
  cases ph <;> cases h <;> decide

theorem Block.TickTo.safe (ht : b.TickTo p smp b') (hp : p.Legal) (h : b.Safe p) : b'.Safe p := by
  have hrun := h.running
  cases ht with
  | idle => exact h
  | count hph _ hc => exact ((hrun hph).count hc).safe
  | endLow1 hph =>
    have hr := hrun (by simp [hph])
    exact (hr.enter hp (ph := .startLow2) nofun ⟨fun _ => hr.line_low1 hph, nofun, nofun⟩).safe
  | endLow2 hph =>
    have hr := hrun (by simp [hph])
    exact (hr.enter hp (ph := .startReady) nofun ⟨nofun, fun _ => ⟨rfl, rfl⟩, nofun⟩).safe
  | endReady hph =>
    have hr := hrun (by simp [hph])
    obtain ⟨-, hout⟩ := hr.line_ready hph
    exact (hr.enterWait hp (ph := .ackWaitLow) rfl hout rfl).safe
  | edge hph =>
    obtain ⟨hw, hw'⟩ := Phase.nextWait_isWait hph
    have hr := hrun (Phase.ne_idle_of_isWait hw)
    obtain ⟨hoe, hout⟩ := hr.line_wait hw
    exact (hr.enterWait hp hoe hout hw').safe
  | bitEdge hph hs hn =>
    have hr := hrun (by simp [hph])
    obtain ⟨hoe, hout⟩ := hr.line_wait (by rw [hph]; rfl)
    exact ((hr.withSr _).nextBit hn |>.enterWait hp (ph := .bitWaitGuard) hoe hout rfl).safe
  | frameEnd hph =>
    exact ((hrun (by simp [hph])).withSr _).safe_frameEnd _
  | ackTimeout hph =>
    obtain ⟨hw, hs⟩ := Phase.ackStage_isWait hph
    exact (hrun (Phase.ne_idle_of_isWait hw)).safe_ackFail hs
  | bitTimeout hph =>
    exact (hrun (Phase.ne_idle_of_isWait (Phase.bitWait_isWait hph))).safe_byteFail _

theorem Block.safe_reset (p : Params) : Block.reset.Safe p :=
  ⟨by decide, nofun, by decide, by decide⟩

end Safety

theorem selBits_of_regOf_ctrl {a : BitVec 5} : regOf a = .ctrl → selBits a = 0#3 := by
  revert a; decide

theorem selBits_htA (w : BitVec 38) : selBits (htA w) = w.extractLsb' 34 3 := by
  ext i hi
  simp only [htA, BitVec.getElem_extractLsb', BitVec.getLsbD_extractLsb']
  rw [← Nat.add_assoc, decide_eq_true (by omega), Bool.true_and]

/-- The bits of a word that writes START to CTRL (30_encoding.md rule R73). -/
theorem startWord_bits {w : BitVec 38} (hw : htW w = true) (ha : regOf (htA w) = .ctrl)
    (hd : startBit (htD w) = true) : w.getLsbD 37 = true ∧ w.extractLsb' 34 3 = 0#3 ∧ w.getLsbD 0 = true :=
  ⟨hw, selBits_htA w ▸ selBits_of_regOf_ctrl ha, by simpa [startBit, htD] using hd⟩

section Steps
variable {s t : State}

/-- A step that goes on has legal parameters. -/
theorem legal_of_step (h : step s = .next t) : s.params.Legal := by
  by_contra hp
  rw [step_of_not_legal hp] at h
  cases h

/-- What a step can do to the block, with the bits of the word that starts an acquisition and the branch of a tick. -/
theorem step_blk_inv (h : step s = .next t) :
    t.blk = s.blk ∨ (s.nextEvent = .reset ∧ t.blk = Block.reset) ∨
    (∃ w, s.nextEvent = .access w ∧ w.getLsbD 37 = true ∧ w.extractLsb' 34 3 = 0#3 ∧ w.getLsbD 0 = true ∧
      s.blk.busy = false ∧ t.blk = s.blk.start s.params) ∨
    (s.nextEvent = .tick ∧ s.blk.TickTo s.params s.sample t.blk) := by
  obtain ⟨-, e | hreset | ⟨w, he, hw, ha, hd, hbusy, e⟩ | ⟨he, e⟩⟩ := step_blk_cases h
  · exact .inl e
  · exact .inr (.inl hreset)
  · obtain ⟨h37, hsel, h0⟩ := startWord_bits hw ha hd
    exact .inr (.inr (.inl ⟨w, he, h37, hsel, h0, hbusy, e⟩))
  · exact .inr (.inr (.inr ⟨he, e ▸ Block.tickTo_tick s.params s.sample s.blk⟩))

theorem step_keeps_safe (hs : s.Safe) (h : step s = .next t) : t.Safe := by
  obtain ⟨hp, hb⟩ := (State.safe_iff s).1 hs
  obtain ⟨hparams, -⟩ := step_blk_cases h
  rw [State.safe_iff, hparams]
  refine ⟨hp, ?_⟩
  rcases step_blk_inv h with e | ⟨-, e⟩ | ⟨-, -, -, -, -, -, e⟩ | ⟨-, htick⟩
  · rw [e]; exact hb
  · rw [e]; exact Block.safe_reset _
  · rw [e]; exact (Block.running_start hp).safe
  · exact htick.safe hp hb

theorem run_keeps_safe {n : Nat} (hs : s.Safe) (h : run n s = .next t) : t.Safe := by
  induction n generalizing s with
  | zero => cases h; exact hs
  | succ n ih =>
    obtain ⟨u, hu, hrun⟩ := run_succ_inv h
    exact ih (step_keeps_safe hs hu) hrun

end Steps

/-- Settles O35: the defaults are legal and the reset block is safe. -/
theorem resetIsSafe : Obligations.ResetIsSafe :=
  (State.safe_iff _).2 ⟨default_legal, Block.safe_reset _⟩

/-- Settles O36: with legal parameters the machine goes on, and each thing a step can do to the block keeps it safe. -/
theorem everyStepKeepsSafety : Obligations.EveryStepKeepsSafety := by
  intro s hs
  obtain ⟨hp, -⟩ := (State.safe_iff s).1 hs
  obtain ⟨t, ht⟩ := step_goes_on hp
  exact ⟨t, ht, step_keeps_safe hs ht⟩

/-- Settles O37: the reset block meets the rule, and a run that takes a step has legal parameters, so
begins in a safe state. -/
theorem ruleR39HoldsOnEveryRun : Obligations.RuleR39HoldsOnEveryRun := by
  intro s hreset n t h
  have hblk : s.blk.Safe s.params := hreset ▸ Block.safe_reset s.params
  cases n with
  | zero => cases h; exact hblk.1
  | succ n =>
    obtain ⟨u, hu, -⟩ := run_succ_inv h
    obtain ⟨-, hrule, -⟩ := run_keeps_safe ((State.safe_iff s).2 ⟨legal_of_step hu, hblk⟩) h
    exact hrule

/-! ### What changes DONE and the frame registers (rules R31, R36, R37 and R63) -/

theorem Block.frameEnd_result_ne_none (v : BitVec 40) (b : Block) : (b.frameEnd v).result ≠ .none := by
  cases hv : frameValid v with
  | false => rw [Block.frameEnd_invalid _ _ hv]; exact nofun
  | true => rw [Block.frameEnd_valid _ _ hv]; exact nofun

/-- A tick keeps every outcome field but by a completion, which a wait phase makes and which ends in IDLE. -/
theorem Block.TickTo.keeps_or_completes {p : Params} {smp : Level} {b b' : Block} (ht : b.TickTo p smp b') :
    (b'.busy = b.busy ∧ b'.done = b.done ∧ b'.result = b.result) ∨
    (b.phase.isWait = true ∧ b'.phase = .idle ∧ b'.busy = false ∧ b'.done = true ∧ b'.result ≠ .none) := by
  cases ht with
  | frameEnd hph => exact .inr ⟨by rw [hph]; rfl, by simp, by simp, by simp, Block.frameEnd_result_ne_none _ _⟩
  | ackTimeout hph =>
    rw [Block.ackFail_eq]
    exact .inr ⟨(Phase.ackStage_isWait hph).1, rfl, rfl, rfl, nofun⟩
  | bitTimeout hph => exact .inr ⟨Phase.bitWait_isWait hph, rfl, rfl, rfl, nofun⟩
  | _ => exact .inl ⟨rfl, rfl, rfl⟩

/-- A tick keeps the frame registers, but for the one that ends a valid frame. -/
theorem Block.TickTo.keeps_frame {p : Params} {smp : Level} {b b' : Block} (ht : b.TickTo p smp b') :
    (b'.data0 = b.data0 ∧ b'.data1 = b.data1) ∨
    (b.phase = .bitMeasureHigh ∧ b.nbit = 39#6 ∧ smp = false ∧ b'.result = .ok ∧ b'.done = true) := by
  cases ht with
  | frameEnd hph hs hn =>
    cases hv : frameValid (shiftIn b.sr (classify p (width p b.cnt))) with
    | false => rw [Block.frameEnd_invalid _ _ hv]; exact .inl ⟨rfl, rfl⟩
    | true => rw [Block.frameEnd_valid _ _ hv]; exact .inr ⟨hph, hn, hs, rfl, rfl⟩
  | ackTimeout => rw [Block.ackFail_eq]; exact .inl ⟨rfl, rfl⟩
  | _ => exact .inl ⟨rfl, rfl⟩

/-- Settles O38: a step keeps DONE, resets the block, starts an acquisition, or ticks. -/
theorem doneChangesOnlyAsRuled : Obligations.DoneChangesOnlyAsRuled := by
  intro s t _ h
  rcases step_blk_inv h with e | ⟨he, e⟩ | ⟨w, he, h37, hsel, h0, hbusy, e⟩ | ⟨he, htick⟩
  · exact ⟨fun hclear hset => by simp [e, hclear] at hset, fun hset hclear => by simp [e, hset] at hclear⟩
  · exact ⟨fun _ hdone => by simp [e, Block.reset] at hdone, fun _ _ => .inl he⟩
  · exact ⟨fun _ hdone => by simp [e, Block.start] at hdone,
      fun _ _ => .inr ⟨w, he, h37, hsel, h0, hbusy, by rw [e]; rfl⟩⟩
  · rcases htick.keeps_or_completes with ⟨-, hdone, -⟩ | ⟨hw, hph, hbusy, hdone, hres⟩
    · exact ⟨fun hclear hset => by simp [hdone, hclear] at hset,
        fun hset hclear => by simp [hdone, hset] at hclear⟩
    · exact ⟨fun _ _ => ⟨he, hw, hph, hbusy, hres⟩, by simp [hdone]⟩

/-- Settles O39: of what a step can do, only reset, START and a valid frame's end write the frame registers. -/
theorem frameRegistersChangeOnlyAsRuled : Obligations.FrameRegistersChangeOnlyAsRuled := by
  intro s t h hchange
  rcases step_blk_inv h with e | ⟨he, e⟩ | ⟨w, he, h37, hsel, h0, hbusy, e⟩ | ⟨he, htick⟩
  · simp [e] at hchange
  · exact .inl ⟨he, by rw [e]; rfl, by rw [e]; rfl⟩
  · exact .inr (.inl ⟨w, he, h37, hsel, h0, hbusy, by rw [e]; exact ⟨rfl, rfl, rfl⟩⟩)
  · rcases htick.keeps_frame with ⟨h0, h1⟩ | hend
    · simp [h0, h1] at hchange
    · exact .inr (.inr ⟨he, hend⟩)

/-! ### When the line is sampled (rule R26) -/

section Sampling
variable {s t : State}

theorem State.takeSample_afterEvent_draws (s : State) : s.afterEvent.takeSample.draws = s.takeSample.draws := by
  unfold State.takeSample
  rw [State.afterEvent_line]
  split <;> simp

/-- The sensor after a tick of a wait phase: one sample has been taken. -/
theorem step_sensor_of_wait (h : step s = .next t) (he : s.nextEvent = .tick) (hw : s.blk.phase.isWait = true) :
    t.line = s.takeSample.line ∧ t.draws = s.takeSample.draws := by
  rw [step_tick (legal_of_step h) he] at h
  cases h
  simp [State.tick, hw, State.takeSample_afterEvent_draws]

theorem step_sensor_of_not_wait (h : step s = .next t) (he : s.nextEvent = .tick)
    (hw : ¬ s.blk.phase.isWait = true) : t.line = s.line ∧ t.draws = s.draws := by
  rw [step_tick (legal_of_step h) he] at h
  cases h
  simp [State.tick, hw]

/-- Only a tick can touch the sensor. -/
theorem step_sensor_of_not_tick (h : step s = .next t) (he : s.nextEvent ≠ .tick) :
    t.line = s.line ∧ t.draws = s.draws := by
  have hp := legal_of_step h
  cases hev : s.nextEvent with
  | tick => exact absurd hev he
  | reset => rw [step_reset hp hev] at h; cases h; simp
  | quiet => rw [step_quiet hp hev] at h; cases h; simp
  | access w =>
    rw [step_access hp hev] at h
    rcases exec_decodeHT_cases w s.afterEvent with e | ⟨r, e⟩ | ⟨-, -, -, e⟩
    all_goals
      rw [e] at h
      cases h
      simp

end Sampling

/-- Settles O41: a tick takes a sample exactly in a wait phase, and no other event does. -/
theorem samplesOnlyInWaitPhases : Obligations.SamplesOnlyInWaitPhases := by
  intro s t h
  simp only [← not_le, ← Phase.isWait_iff_code]
  constructor
  · intro he hw
    obtain ⟨hline, hdraws⟩ := step_sensor_of_wait h he hw
    refine ⟨fun l ls hl => ?_, fun hl => ?_⟩
    · rw [hline, hdraws, State.takeSample_of_line _ hl]
      exact ⟨rfl, rfl⟩
    · rw [hline, hdraws, State.takeSample_of_nil _ hl]
      exact ⟨hl, rfl⟩
  · intro hno
    by_cases he : s.nextEvent = .tick
    · exact step_sensor_of_not_wait h he (hno.resolve_left (not_not_intro he))
    · exact step_sensor_of_not_tick h he

/-- Settles O24: each case of a sample is a law of `sample` and of `takeSample`. -/
theorem sampleIsTheNextLevelOrFree : Obligations.SampleIsTheNextLevelOrFree :=
  ⟨fun s _ _ h => ⟨s.sample_of_line h, s.takeSample_of_line h⟩,
    fun s h => ⟨s.sample_of_pulledUp h, s.sample_of_free h, s.takeSample_of_nil h⟩⟩

/-! ### The STATUS word (rule R29) -/

/-- A bit is a field one bit wide. -/
theorem getLsbD_of_extractLsb' {n i : Nat} {w : BitVec n} {c : Bool} (h : w.extractLsb' i 1 = BitVec.ofBool c) :
    w.getLsbD i = c := by
  simpa using congrArg (fun x => x.getLsbD 0) h

/-- Settles O18: the fields come off the word one by one from the low end, as rule R29 lays them out. -/
theorem statusWordFields : Obligations.StatusWordFields := by
  refine ⟨fun b => ?_, rfl, fun b => rfl, fun a d s => ⟨rfl, rfl⟩⟩
  have h : (statusWord b).extractLsb' 0 _ =
      BitVec.ofBool b.lineOut ++ BitVec.ofBool b.lineOe ++ b.phase.code ++ 0b0000#4 ++ BitVec.ofBool b.failWait ++
        b.failBit ++ BitVec.ofBool false ++ b.failByte ++ 0b00#2 ++ b.ackStage.code ++ 0b000#3 ++ b.result.code ++
        BitVec.ofBool b.done ++ BitVec.ofBool b.busy :=
    (BitVec.extractLsb'_setWidth_of_le (by decide)).trans BitVec.extractLsb'_eq_self
  obtain ⟨h, busy⟩ := extractLsb'_of_append h
  obtain ⟨h, done⟩ := extractLsb'_of_append h
  obtain ⟨h, result⟩ := extractLsb'_of_append h
  obtain ⟨h, gap5⟩ := extractLsb'_of_append h
  obtain ⟨h, stage⟩ := extractLsb'_of_append h
  obtain ⟨h, gap10⟩ := extractLsb'_of_append h
  obtain ⟨h, failByte⟩ := extractLsb'_of_append h
  obtain ⟨h, gap15⟩ := extractLsb'_of_append h
  obtain ⟨h, failBit⟩ := extractLsb'_of_append h
  obtain ⟨h, failWait⟩ := extractLsb'_of_append h
  obtain ⟨h, gap20⟩ := extractLsb'_of_append h
  obtain ⟨h, phase⟩ := extractLsb'_of_append h
  obtain ⟨lineOut, lineOe⟩ := extractLsb'_of_append h
  refine ⟨getLsbD_of_extractLsb' busy, getLsbD_of_extractLsb' done, ?_, gap5, ?_, gap10, failByte,
    getLsbD_of_extractLsb' gap15, failBit, getLsbD_of_extractLsb' failWait, gap20, ?_,
    getLsbD_of_extractLsb' lineOe, getLsbD_of_extractLsb' lineOut, ?_⟩
  · exact (congrArg BitVec.toNat result).trans (by cases b.result <;> rfl)
  · exact (congrArg BitVec.toNat stage).trans (by cases b.ackStage <;> rfl)
  · exact (congrArg BitVec.toNat phase).trans (by cases b.phase <;> rfl)
  · unfold statusWord
    rw [BitVec.extractLsb'_setWidth_of_le (by decide)]
    ext i hi
    simp

end Sys2Proof.Machine
end

section
/-! PROOFS. The registers as the host sees them (20_memory.md): the address decode, what writes and reads leave
unchanged, the order of a cycle's events, and where the received bits land in the frame. -/

namespace Sys2Proof.Machine

/-! ### The address decode (rules R51 and R52) -/

section Addresses
variable {a a' : BitVec 5}

/-- `addr[4:2]` alone selects the register. -/
theorem regOf_congr (h : selBits a = selBits a') : regOf a = regOf a' := by
  rw [regOf_selBits, h, ← regOf_selBits]

theorem regRead_congr (h : selBits a = selBits a') (b : Block) : regRead a b = regRead a' b := by
  rw [regRead, regOf_congr h, regRead]

theorem regWrite_congr (h : selBits a = selBits a') (p : Params) (d : Word) :
    regWrite p a d = regWrite p a' d := by
  funext b
  rw [regWrite, regOf_congr h, regWrite]

theorem selBits_clearLow (a : BitVec 5) : selBits (a &&& 0x1C#5) = selBits a := by
  revert a; decide

/-- Transactions that agree in `W`, `A[4:2]` and `D` do the same. -/
theorem exec_decodeHT_htWord_congr (h : selBits a = selBits a') (W : Bool) (d : Word) (s : State) :
    exec (decodeHT (htWord W a d)) s = exec (decodeHT (htWord W a' d)) s := by
  cases W with
  | false => simp only [exec_decodeHT_read (htW_htWord false _ d), htA_htWord, regRead_congr h]
  | true => simp only [exec_decodeHT_write (htW_htWord true _ d), htA_htWord, htD_htWord, regWrite_congr h]

end Addresses

/-- Settles O5: `addr[4:2]` selects the register, and clearing `addr[1:0]` leaves it as it is. -/
theorem lowAddressBitsAreIgnored : Obligations.LowAddressBitsAreIgnored := by
  refine ⟨fun a => ?_, fun W a d s => exec_decodeHT_htWord_congr (selBits_clearLow a).symm W d s⟩
  simpa only [← BitVec.toNat_inj, BitVec.reduceToNat] using regOf_selBits a

/-! ### Writes (rule R57) -/

section Writes
variable {p : Params} {off : BitVec 5} {v : Word} {b : Block}

theorem regOf_eq_ctrl_iff (a : BitVec 5) : regOf a = .ctrl ↔ selBits a = 0#3 := by
  revert a; decide

/-- The bits of a word that addresses CTRL with START set, as fields of the transaction. -/
theorem startWord_iff (w : BitVec 38) :
    w.extractLsb' 34 3 = 0#3 ∧ w.getLsbD 0 = true ↔ regOf (htA w) = .ctrl ∧ startBit (htD w) = true := by
  rw [regOf_eq_ctrl_iff, selBits_htA]
  simp [startBit, htD]

theorem regWrite_start (ha : regOf off = .ctrl) (hv : startBit v = true) (hb : b.busy = false) :
    regWrite p off v b = b.start p := by
  simp only [regWrite, ha, hv, if_true, Block.acquire_idle p b hb]

/-- A write that is no START of an idle block is ignored. -/
theorem regWrite_ignored (h : ¬ (regOf off = .ctrl ∧ startBit v = true ∧ b.busy = false)) :
    regWrite p off v b = b := by
  unfold regWrite
  split
  next ha =>
    split
    next hv => exact Block.acquire_busy p b (Bool.eq_true_of_not_eq_false fun hb => h ⟨ha, hv, hb⟩)
    next => rfl
  all_goals rfl

theorem State.onBlock_eq_self {f : Block → Block} {s : State} (h : f s.blk = s.blk) : s.onBlock f = s := by
  rw [State.onBlock, h]

end Writes

/-- Settles O15: a write is `RegWrite`, which starts an acquisition or is ignored. -/
theorem onlyAnAcceptedStartActs : Obligations.OnlyAnAcceptedStartActs := by
  intro w s hw
  rw [exec_decodeHT_write hw, ← and_assoc, startWord_iff, and_assoc]
  constructor
  · rintro ⟨ha, hv, hb⟩
    refine ⟨_, rfl, ?_⟩
    rw [State.onBlock_blk, regWrite_start ha hv hb]
    exact ⟨rfl, rfl⟩
  · intro h
    rw [State.onBlock_eq_self (regWrite_ignored h)]

/-! ### Reads (rule R56) -/

/-- Settles O17: a read is `RegRead`, which a second read of the same register finds in the same block. -/
theorem readsHaveNoSideEffect : Obligations.ReadsHaveNoSideEffect := by
  intro w s hw
  refine ⟨regRead (htA w) s.blk, exec_decodeHT_read hw s, fun w' hw' hsel => ?_⟩
  have hreg : selBits (htA w') = selBits (htA w) := by rw [selBits_htA, selBits_htA, hsel]
  rw [exec_decodeHT_read hw', regRead_congr hreg]
  rfl

/-! ### The events of a cycle, one after the other (rules R60, R67 and R220) -/

theorem exec_decodeHT_keeps_params_inputs {w : BitVec 38} {s t : State} (h : exec (decodeHT w) s = .next t) :
    t.params = s.params ∧ t.inputs = s.inputs := by
  rcases exec_decodeHT_cases w s with e | ⟨r, e⟩ | ⟨-, -, -, e⟩
  all_goals
    rw [e] at h
    cases h
    exact ⟨rfl, rfl⟩

/-- Settles O8: the first step runs the access and leaves the cycle's tick, which the second step runs. -/
theorem hostAccessPrecedesTheTick : Obligations.HostAccessPrecedesTheTick := by
  intro s t w cs i hp hinputs haccess htick
  obtain ⟨hparams, hleft⟩ := exec_decodeHT_keeps_params_inputs haccess
  obtain ⟨first, -, -, -⟩ := stepRunsTheDecodedInstruction s hp
  obtain ⟨-, second, -, -⟩ := stepRunsTheDecodedInstruction t (hparams ▸ hp)
  have hfirst : step s = .next t := (first _ cs w _ hinputs rfl rfl rfl).trans haccess
  rw [run_succ 1 hfirst, run_one]
  exact second _ cs i hleft rfl rfl rfl htick

/-- Settles O11: with legal parameters a step goes on, and nothing a step does writes the parameters. -/
theorem everyStepGoesOn : Obligations.EveryStepGoesOn := by
  intro s hp
  obtain ⟨t, ht⟩ := step_goes_on hp
  obtain ⟨hparams, -⟩ := step_blk_cases ht
  exact ⟨t, ht, hparams⟩

/-! ### The shift register as a stream of bits (rules R55 and R163) -/

/-- A shift appends the bit at the low end and drops the highest. -/
theorem shiftIn_eq_shiftConcat (sr : BitVec 40) (b : Bool) : shiftIn sr b = sr.shiftConcat b := by
  apply BitVec.eq_of_getLsbD_eq
  intro i hi
  rw [BitVec.getLsbD_shiftConcat]
  cases i with
  | zero => simp [shiftIn]
  | succ i => simp [shiftIn, hi, Nat.lt_of_succ_lt hi]

theorem getLsbD_shiftIn_zero (sr : BitVec 40) (b : Bool) : (shiftIn sr b).getLsbD 0 = b := by
  simp [shiftIn_eq_shiftConcat]

theorem getLsbD_shiftIn_succ (sr : BitVec 40) (b : Bool) {i : Nat} (hi : i + 1 < 40) :
    (shiftIn sr b).getLsbD (i + 1) = sr.getLsbD i := by
  simp [shiftIn_eq_shiftConcat, hi, Nat.lt_of_succ_lt hi]

/-- Of a stream that fits in the register, the last bit is at position 0 and every earlier one is one position
higher than the bit after it. -/
theorem getLsbD_foldl_shiftIn (sr : BitVec 40) (bits : List Bool) (hlen : bits.length ≤ 40) {n : Nat}
    (hn : n < bits.length) : (bits.foldl shiftIn sr).getLsbD (bits.length - 1 - n) = bits[n] := by
  induction bits using List.reverseRecOn with
  | nil => cases hn
  | append_singleton bits b ih =>
    rw [List.length_append, List.length_singleton] at hlen hn
    simp only [List.foldl_append, List.foldl_cons, List.foldl_nil, List.length_append, List.length_singleton,
      Nat.add_sub_cancel]
    rcases Nat.lt_succ_iff_lt_or_eq.1 hn with hlt | rfl
    · have hpos : bits.length - n = bits.length - 1 - n + 1 := by omega
      rw [hpos, getLsbD_shiftIn_succ _ _ (by omega), ih (by omega) hlt, List.getElem_append_left hlt]
    · rw [Nat.sub_self, getLsbD_shiftIn_zero, List.getElem_concat_length rfl]

/-- Bit `7 - (n mod 8)` of byte `n / 8` is bit `39 - n` of the frame. -/
theorem getLsbD_frameByte (v : BitVec 40) {n : Nat} (hn : n < 40) :
    (frameByte v (n / 8)).getLsbD (7 - n % 8) = v.getLsbD (39 - n) := by
  have hpos : 32 - 8 * (n / 8) + (7 - n % 8) = 39 - n := by omega
  have hbyte : 7 - n % 8 < 8 := by omega
  rw [frameByte, BitVec.getLsbD_extractLsb', hpos, decide_eq_true hbyte, Bool.true_and]

/-- Settles O31: a shift is a `shiftConcat`, and a stream of 40 bits fills the register from its top. -/
theorem shiftPlacesTheStream : Obligations.ShiftPlacesTheStream := by
  refine ⟨fun sr b => ?_, fun bits hlen n hn => ?_⟩
  · rw [shiftIn_eq_shiftConcat, BitVec.toNat_shiftConcat, Nat.shiftLeft_eq, pow_one]
  · have hbit := getLsbD_foldl_shiftIn 0#40 bits hlen.le hn
    rw [hlen] at hbit
    exact ⟨hbit, (getLsbD_frameByte _ (hlen ▸ hn)).trans hbit⟩

end Sys2Proof.Machine
end

section
/-! PROOFS. The encoding (30_encoding.md): the row of a transaction's fields, decoding and encoding as inverses, the
unique row of the opcode table, the host assembly's words, and a word placed to run next. -/

namespace Sys2Proof

open Machine

/-! ### The row of a transaction's fields (rules R70 and R73) -/

/-- The instruction that a direction `W`, a register and the operand fields give. -/
def Reg.row (r : Reg) (W : Bool) (a : BitVec 5) (d : Word) : Instr :=
  match W, r with
  | true, .ctrl => if startBit d then .acquire a d else .wrCtrlNop a d
  | true, .status => .wrStatus a d
  | true, .data0 => .wrData0 a d
  | true, .data1 => .wrData1 a d
  | true, .unmapped => .wrUnmapped a d
  | false, .ctrl => .rdCtrl a d
  | false, .status => .rdStatus a d
  | false, .data0 => .rdData0 a d
  | false, .data1 => .rdData1 a d
  | false, .unmapped => .rdUnmapped a d

section Rows
variable {a : BitVec 5} {k : BitVec 3}

theorem decodeHT_eq_row (w : BitVec 38) : decodeHT w = (regOf (htA w)).row (htW w) (htA w) (htD w) := rfl

theorem decodeHT_htWord (W : Bool) (a : BitVec 5) (d : Word) : decodeHT (htWord W a d) = (regOf a).row W a d := by
  rw [decodeHT_eq_row, htW_htWord, htA_htWord, htD_htWord]

theorem Reg.encode_row (r : Reg) (W : Bool) (a : BitVec 5) (d : Word) : encode (r.row W a d) = .ht (htWord W a d) := by
  cases W with
  | false => cases r <;> rfl
  | true =>
    cases r with
    | ctrl => cases hd : startBit d <;> simp [Reg.row, hd, encode]
    | _ => rfl

/-- `addr[4:2]` alone decides: the register is that of the offset `k * 4`. -/
theorem regOf_of_selBits (h : selBits a = k) : regOf a = regOf (k ++ 0#2) := by
  subst h; revert a; decide

/-- The `A[4:2]` column of each register (20_memory.md rule R52). -/
theorem regOf_column (a : BitVec 5) :
    (regOf a = .ctrl → selBits a = 0#3) ∧ (regOf a = .status → selBits a = 1#3) ∧
    (regOf a = .data0 → selBits a = 2#3) ∧ (regOf a = .data1 → selBits a = 3#3) ∧
    (regOf a = .unmapped → a.getLsbD 4 = true) := by
  revert a; decide

theorem row_regOf_wellFormed (W : Bool) (a : BitVec 5) (d : Word) : ((regOf a).row W a d).WellFormed = true := by
  obtain ⟨hctrl, hstatus, hdata0, hdata1, hunmapped⟩ := regOf_column a
  cases hr : regOf a with
  | ctrl =>
    have hsel : (selBits a == 0#3) = true := beq_iff_eq.2 (hctrl hr)
    cases W with
    | false => exact hsel
    | true => cases hd : startBit d <;> simp_all [Reg.row, startBit, Instr.WellFormed]
  | status => cases W <;> exact beq_iff_eq.2 (hstatus hr)
  | data0 => cases W <;> exact beq_iff_eq.2 (hdata0 hr)
  | data1 => cases W <;> exact beq_iff_eq.2 (hdata1 hr)
  | unmapped => cases W <;> exact hunmapped hr

/-- A well-formed instruction is the row of its own fields, or a phase's. -/
theorem Instr.row_or_phase {i : Instr} (h : i.WellFormed = true) :
    (∃ r W a d, regOf a = r ∧ i = r.row W a d) ∨ ∃ ph : Phase, i = ph.instr := by
  cases i with
  | acquire a d =>
    obtain ⟨ha, hd⟩ := Bool.and_eq_true_iff.1 h
    exact .inl ⟨.ctrl, true, a, d, regOf_of_selBits (eq_of_beq ha), (if_pos hd).symm⟩
  | wrCtrlNop a d =>
    obtain ⟨ha, hd⟩ := Bool.and_eq_true_iff.1 h
    have hclear : ¬ startBit d = true := Bool.eq_false_iff.1 (Bool.not_eq_eq_eq_not.1 hd)
    exact .inl ⟨.ctrl, true, a, d, regOf_of_selBits (eq_of_beq ha), (if_neg hclear).symm⟩
  | wrStatus a d => exact .inl ⟨.status, true, a, d, regOf_of_selBits (eq_of_beq h), rfl⟩
  | wrData0 a d => exact .inl ⟨.data0, true, a, d, regOf_of_selBits (eq_of_beq h), rfl⟩
  | wrData1 a d => exact .inl ⟨.data1, true, a, d, regOf_of_selBits (eq_of_beq h), rfl⟩
  | wrUnmapped a d => exact .inl ⟨.unmapped, true, a, d, (regOf_unmapped_iff a).2 h, rfl⟩
  | rdCtrl a d => exact .inl ⟨.ctrl, false, a, d, regOf_of_selBits (eq_of_beq h), rfl⟩
  | rdStatus a d => exact .inl ⟨.status, false, a, d, regOf_of_selBits (eq_of_beq h), rfl⟩
  | rdData0 a d => exact .inl ⟨.data0, false, a, d, regOf_of_selBits (eq_of_beq h), rfl⟩
  | rdData1 a d => exact .inl ⟨.data1, false, a, d, regOf_of_selBits (eq_of_beq h), rfl⟩
  | rdUnmapped a d => exact .inl ⟨.unmapped, false, a, d, (regOf_unmapped_iff a).2 h, rfl⟩
  | idle => exact .inr ⟨.idle, rfl⟩
  | startLow1 => exact .inr ⟨.startLow1, rfl⟩
  | startLow2 => exact .inr ⟨.startLow2, rfl⟩
  | startReady => exact .inr ⟨.startReady, rfl⟩
  | ackWaitLow => exact .inr ⟨.ackWaitLow, rfl⟩
  | ackWaitHigh => exact .inr ⟨.ackWaitHigh, rfl⟩
  | ackWaitRelease => exact .inr ⟨.ackWaitRelease, rfl⟩
  | bitWaitGuard => exact .inr ⟨.bitWaitGuard, rfl⟩
  | bitMeasureHigh => exact .inr ⟨.bitMeasureHigh, rfl⟩

end Rows

/-! ### Phase codes (rules R71, R74 and R76) -/

section Phases
variable {c : BitVec 4} {ph : Phase}

theorem encode_phase_instr (ph : Phase) : encode ph.instr = .ph ph.code := by
  cases ph <;> rfl

theorem phase_instr_wellFormed (ph : Phase) : ph.instr.WellFormed = true := by
  cases ph <;> rfl

theorem rowOf_phase_instr (ph : Phase) : rowOf ph.instr = .ph ph.code 0xF#4 := by
  cases ph <;> rfl

theorem code_of_ofCode (h : Phase.ofCode c = some ph) : ph.code = c := by
  cases ph <;> (revert c; decide)

/-- Codes 0 to 8 are the phases'. -/
theorem exists_phase_code (h : c.toNat ≤ 8) : ∃ ph : Phase, ph.code = c := by
  have hsome : (Phase.ofCode c).isSome = true := by revert c; decide
  obtain ⟨ph, hph⟩ := Option.isSome_iff_exists.1 hsome
  exact ⟨ph, code_of_ofCode hph⟩

/-- Codes 9 to 15 are reserved. -/
theorem decode_reserved (h : 9 ≤ c.toNat) : decode (.ph c) = .error (.reservedPhase c) := by
  revert c; decide

end Phases

/-! ### Decoding and encoding are inverse (rules R70, R71, R73 and R74) -/

/-- Settles O2: a well-formed instruction is the row of its own fields, which its word holds, or a phase's, whose code
decodes to it. -/
theorem decodeOfEncode : Obligations.DecodeOfEncode := by
  intro i h
  rcases Instr.row_or_phase h with ⟨r, W, a, d, ha, rfl⟩ | ⟨ph, rfl⟩
  · rw [Reg.encode_row, decode, decodeHT_htWord, ha]
  · rw [encode_phase_instr, decode_phase_code]

theorem encode_decodeHT (w : BitVec 38) : encode (decodeHT w) = .ht w := by
  rw [decodeHT_eq_row, Reg.encode_row, htWord_fields]

/-- Settles O3: a transaction word is the word of its fields' row; a phase code that is not reserved is a phase's. -/
theorem encodeOfDecode : Obligations.EncodeOfDecode := by
  intro c i h
  cases c with
  | ht w =>
    cases h
    exact ⟨row_regOf_wellFormed (htW w) (htA w) (htD w), encode_decodeHT w⟩
  | ph c =>
    rcases Nat.lt_or_ge c.toNat 9 with hc | hc
    · obtain ⟨ph, rfl⟩ := exists_phase_code (Nat.le_of_lt_succ hc)
      rw [decode_phase_code] at h
      cases h
      exact ⟨phase_instr_wellFormed ph, encode_phase_instr ph⟩
    · rw [decode_reserved hc] at h
      cases h

/-! ### The unique row of the opcode table (rules R73 and R76) -/

open Laws in
/-- The word of a well-formed instruction matches that instruction's row. -/
theorem rowOf_matches_encode (i : Instr) : MatchesRow.Statement i := by
  cases i with
  | acquire a d => exact MatchesRow.acquire a d
  | wrCtrlNop a d => exact MatchesRow.wrCtrlNop a d
  | wrStatus a d => exact MatchesRow.wrStatus a d
  | wrData0 a d => exact MatchesRow.wrData0 a d
  | wrData1 a d => exact MatchesRow.wrData1 a d
  | wrUnmapped a d => exact MatchesRow.wrUnmapped a d
  | rdCtrl a d => exact MatchesRow.rdCtrl a d
  | rdStatus a d => exact MatchesRow.rdStatus a d
  | rdData0 a d => exact MatchesRow.rdData0 a d
  | rdData1 a d => exact MatchesRow.rdData1 a d
  | rdUnmapped a d => exact MatchesRow.rdUnmapped a d
  | idle => exact MatchesRow.idle
  | startLow1 => exact MatchesRow.startLow1
  | startLow2 => exact MatchesRow.startLow2
  | startReady => exact MatchesRow.startReady
  | ackWaitLow => exact MatchesRow.ackWaitLow
  | ackWaitHigh => exact MatchesRow.ackWaitHigh
  | ackWaitRelease => exact MatchesRow.ackWaitRelease
  | bitWaitGuard => exact MatchesRow.bitWaitGuard
  | bitMeasureHigh => exact MatchesRow.bitMeasureHigh

section UniqueRow
variable {i j : Instr} {c : Code}

/-- An instruction that a code decodes to has a row which the code matches. -/
theorem matches_of_decode (h : decode c = .ok i) : (rowOf i).Matches c = true := by
  obtain ⟨hwf, rfl⟩ := encodeOfDecode c i h
  exact rowOf_matches_encode i hwf

/-- A transaction word matches one row at most, since the eleven are disjoint. -/
theorem rowOf_eq_of_matches_ht {w : BitVec 38} (hi : (rowOf i).Matches (.ht w) = true)
    (hj : (rowOf j).Matches (.ht w) = true) : rowOf i = rowOf j := by
  obtain ⟨r, hr, ei, hwi⟩ := row_mem_htRows hi
  obtain ⟨q, hq, ej, hwj⟩ := row_mem_htRows hj
  rw [ei, ej, htRows_disjoint hr hq hwi hwj]

/-- The row that a phase code matches has that code as its pattern: the mask of a phase's row keeps every bit. -/
theorem rowOf_of_matches_ph {c : BitVec 4} (h : (rowOf i).Matches (.ph c) = true) : rowOf i = .ph c 0xF#4 := by
  have hmask : c &&& 0xF#4 = c := BitVec.and_allOnes
  cases i <;> simp only [rowOf, Row.Matches, hmask, beq_iff_eq, reduceCtorEq] at h ⊢ <;> rw [h]

/-- Both formats: a code that decodes to `i` matches the row of `i` and no other. -/
theorem matches_iff_of_decode (h : decode c = .ok i) (j : Instr) :
    (rowOf j).Matches c = true ↔ rowOf j = rowOf i := by
  have hi := matches_of_decode h
  refine ⟨fun hj => ?_, fun e => e ▸ hi⟩
  cases c with
  | ht w => exact rowOf_eq_of_matches_ht hj hi
  | ph c => rw [rowOf_of_matches_ph hj, rowOf_of_matches_ph hi]

end UniqueRow

/-- Settles O4: a code that decodes matches its instruction's row alone, and codes 0 to 8 are the phases'. -/
theorem decoderFindsTheUniqueRow : Obligations.DecoderFindsTheUniqueRow := by
  refine ⟨fun w => ⟨rfl, matches_iff_of_decode rfl⟩, fun c hc => ?_, fun c => decode_reserved,
    fun ph => ⟨ph.instr, decode_phase_code ph⟩⟩
  obtain ⟨ph, rfl⟩ := exists_phase_code hc
  exact ⟨ph.instr, decode_phase_code ph, matches_iff_of_decode (decode_phase_code ph)⟩

/-! ### Written words and the host assembly (rules R70, R73, R74 and R77) -/

/-- Settles O1: the decoder, run on each of the words. -/
theorem writtenWordsDecode : Obligations.WrittenWordsDecode := by
  unfold Obligations.WrittenWordsDecode
  decide

/-- Settles O6: each word is a `htWord` of its register's offset, which decodes to the row of its fields. -/
theorem assemblyEncodes : Obligations.AssemblyEncodes :=
  ⟨fun imm => ⟨decodeHT_htWord true 0x00#5 imm, decodeHT_htWord true 0x04#5 imm, decodeHT_htWord true 0x08#5 imm,
      decodeHT_htWord true 0x0C#5 imm⟩,
    decodeHT_htWord false 0x00#5 0#32, decodeHT_htWord false 0x04#5 0#32, decodeHT_htWord false 0x08#5 0#32,
    decodeHT_htWord false 0x0C#5 0#32,
    fun o imm => ⟨htW_htWord true o imm, htA_htWord true o imm, htD_htWord true o imm⟩,
    fun o => ⟨htW_htWord false o 0#32, htA_htWord false o 0#32, htD_htWord false o 0#32⟩⟩

/-! ### A placed word (log 6) -/

section Placed
variable {s : State} {i : Instr}

theorem tableCode_ht {nbits w : Nat} (hn : 8 < nbits) (hw : w < 2 ^ 38) :
    tableCode nbits w = some (.ht (BitVec.ofNat 38 w)) := by
  rw [tableCode, if_neg (Nat.not_le.2 hn), if_pos hw]

/-- A word of at most 8 bits that decodes is the phase code it is cut to. -/
theorem tableCode_ph {nbits w : Nat} (hn : nbits ≤ 8) (h : decodeTableWord nbits w = some i) :
    tableCode nbits w = some (.ph (BitVec.ofNat 4 w)) := by
  by_cases hw : w < 16
  · rw [tableCode, if_pos hn, if_pos hw]
  · simp [decodeTableWord, tableCode, hn, hw] at h

theorem decode_of_decodeTableWord {nbits w : Nat} {c : Code} (hc : tableCode nbits w = some c)
    (h : decodeTableWord nbits w = some i) : decode c = .ok i := by
  simp only [decodeTableWord, hc] at h
  cases hd : decode c with
  | error e => simp [hd, Except.toOption] at h
  | ok j => simpa [hd, Except.toOption] using h

/-- A placed transaction is an access by the host. -/
theorem step_placeCode_ht {w : BitVec 38} (hp : s.params.Legal) (hd : decode (.ht w) = .ok i) :
    step (s.placeCode (some (.ht w))) = exec i s := by
  cases hd
  exact hostAccess_eq w hp

/-- A placed phase code is a tick of the block in that phase. -/
theorem step_placeCode_ph {ph : Phase} (hp : s.params.Legal) (hd : decode (.ph ph.code) = .ok i) :
    step (s.placeCode (some (.ph ph.code))) = exec i { s with blk := { s.blk with phase := ph } } := by
  simp only [State.placeCode, Phase.ofCode_code]
  obtain ⟨-, htick, -⟩ := stepRunsTheDecodedInstruction
    { s with blk := { s.blk with phase := ph }, inputs := ClockCycle.plainTick :: s.inputs } hp
  exact htick _ s.inputs i rfl rfl rfl rfl hd

end Placed

/-- Settles O12: the word's code is placed as an access or as the phase of a tick, and the next step decodes it. -/
theorem placedWordRunsNext : Obligations.PlacedWordRunsNext := by
  intro s nbits w hp
  refine ⟨fun i hn hw hi => ?transaction, fun i ph hn hi hph => ?phase⟩
  case transaction =>
    have hc := tableCode_ht hn hw
    rw [State.withFetchWord, hc]
    exact step_placeCode_ht hp (decode_of_decodeTableWord hc hi)
  case phase =>
    have hc := tableCode_ph hn hi
    rw [← code_of_ofCode hph] at hc
    rw [State.withFetchWord, hc]
    exact step_placeCode_ph hp (decode_of_decodeTableWord hc hi)

end Sys2Proof
end

section
/-! PROOFS. The host's programs (30_encoding.md rule R78 and 45_host_interface.md rule R208): POLL, the result that
three words name, how long an acquisition can still take, and READ_FRAME over a schedule of ticks. -/

namespace Sys2Proof.Machine

/-! ### POLL -/

theorem run_keeps_params {n : Nat} {s t : State} (h : run n s = .next t) : t.params = s.params := by
  induction n generalizing s with
  | zero => cases h; rfl
  | succ n ih =>
    obtain ⟨u, hu, hrun⟩ := run_succ_inv h
    obtain ⟨hparams, -⟩ := step_blk_cases hu
    exact (ih hrun).trans hparams

/-- One round of POLL, after a gap that goes on. -/
theorem poll_cons {r : HostReg} {mask val : Word} {gap : Nat} {s u : State} (gaps : List Nat) (hp : s.params.Legal)
    (hu : run gap s = .next u) :
    poll r mask val (gap :: gaps) s =
      if regRead r.offset u.blk &&& mask = val then some (u.respond (regRead r.offset u.blk))
      else poll r mask val gaps (u.respond (regRead r.offset u.blk)) := by
  simp only [poll, hostRead_eq r hu (run_keeps_params hu ▸ hp), beq_iff_eq]

/-- Settles O50: the two branches of a round, and the list with no round left. -/
theorem pollRepeatsUntilItsTest : Obligations.PollRepeatsUntilItsTest := by
  intro r mask val gap gaps s u hp hu
  rw [poll_cons gaps hp hu]
  exact ⟨fun hpass => if_pos hpass, fun hfail => if_neg hfail, rfl⟩

/-! ### The result that the three words name (rules R29 and R78) -/

theorem extractLsb'_setWidth_byte (x : Byte) : (x.setWidth 32).extractLsb' 0 8 = x :=
  (BitVec.extractLsb'_setWidth_of_le (by decide)).trans BitVec.extractLsb'_eq_self

/-- Settles O48: the fields of STATUS are the block's, and RESULT's code selects the case. -/
theorem readResultNamesTheOutcome : Obligations.ReadResultNamesTheOutcome := by
  intro b
  obtain ⟨hfields, -⟩ := statusWordFields
  obtain ⟨-, -, hresult, -, -, -, hbyte, -, hbit, -⟩ := hfields b
  rw [readResult, hresult, hbyte, hbit, extractLsb'_setWidth_byte]
  cases b.result <;> rfl

/-- The result that a block's own registers name. -/
def Block.readResult (b : Block) : Option ReadResult :=
  Machine.readResult (statusWord b) b.data0 (b.data1.setWidth 32)

/-- A completed safe block gives one of the four results; a frame among them has its checksum (rule R39). -/
theorem Block.readResult_of_done {p : Params} {b : Block} (hb : b.Safe p) (hdone : b.done = true) :
    ∃ r, b.readResult = some r ∧
      ∀ b0 b1 b2 b3 b4, r = .ok b0 b1 b2 b3 b4 →
        (b0.toNat + b1.toNat + b2.toNat + b3.toNat) % 256 = b4.toNat := by
  obtain ⟨⟨-, -, hres, -, hsum, -⟩, -⟩ := hb
  rw [Block.readResult, readResultNamesTheOutcome]
  cases hr : b.result with
  | none => exact absurd hr (hres.1 hdone)
  | ok =>
    refine ⟨_, rfl, fun b0 b1 b2 b3 b4 he => ?_⟩
    cases he
    exact hsum hr
  | ackFail => exact ⟨_, rfl, nofun⟩
  | byteFail => exact ⟨_, rfl, nofun⟩
  | cksumMismatch => exact ⟨_, rfl, nofun⟩

/-- WAIT_DONE's test: BUSY is clear and DONE is set. -/
theorem status_test_iff (b : Block) : statusWord b &&& 3#32 = 2#32 ↔ b.busy = false ∧ b.done = true := by
  obtain ⟨hfields, -⟩ := statusWordFields
  obtain ⟨hbusy, hdone, -⟩ := hfields b
  rw [← hbusy, ← hdone]
  constructor
  · intro h
    exact ⟨by simpa using congrArg (·.getLsbD 0) h, by simpa using congrArg (·.getLsbD 1) h⟩
  · rintro ⟨h0, h1⟩
    apply BitVec.eq_of_getLsbD_eq
    intro i hi
    rw [BitVec.getLsbD_and]
    match i with
    | 0 => rw [h0]; rfl
    | 1 => rw [h1]; rfl
    | i + 2 => simp [BitVec.getLsbD_ofNat, Nat.testBit_succ]

/-! ### How long an acquisition can still take (rules R187 and R262) -/

/-- The waits that follow a phase, when bit `n` is the one being decoded. -/
def Phase.waitsAfter (n : Nat) : Phase → Nat
  | .idle => 0
  | .startLow1 => 83
  | .startLow2 => 83
  | .startReady => 83
  | .ackWaitLow => 82
  | .ackWaitHigh => 81
  | .ackWaitRelease => 80
  | .bitWaitGuard => 2 * (39 - n) + 1
  | .bitMeasureHigh => 2 * (39 - n)

/-- The ticks of the delays that follow a phase. -/
def Phase.delaysAfter (p : Params) : Phase → Nat
  | .startLow1 => p.tLow2 + p.tReady
  | .startLow2 => p.tReady
  | _ => 0

/-- The most ticks a block can still take to complete: its counter, and what follows its phase in full. -/
def Block.ticksLeft (p : Params) (b : Block) : Nat :=
  if b.phase = .idle then 0
  else b.cnt.toNat + b.phase.delaysAfter p + b.phase.waitsAfter b.nbit.toNat * p.budget

section TicksLeft
variable {p : Params} {smp : Level} {b b' : Block}

theorem Block.ticksLeft_of_idle (h : b.phase = .idle) : b.ticksLeft p = 0 := if_pos h

theorem Block.ticksLeft_of_ne_idle (h : b.phase ≠ .idle) :
    b.ticksLeft p = b.cnt.toNat + b.phase.delaysAfter p + b.phase.waitsAfter b.nbit.toNat * p.budget := if_neg h

theorem Block.Running.ticksLeft_pos (h : b.Running p) : 0 < b.ticksLeft p := by
  obtain ⟨hcnt, -⟩ := h.cnt
  rw [Block.ticksLeft_of_ne_idle h.phase]
  omega

/-- After START the whole of the longest acquisition is left. -/
theorem Block.ticksLeft_start (hp : p.Legal) (b : Block) : (b.start p).ticksLeft p = p.maxTicks := by
  obtain ⟨-, hlow1⟩ := Phase.load_bounds hp (ph := .startLow1) nofun
  have hcnt : (b.start p).cnt.toNat = p.tLow1 := counterOf_toNat hlow1
  have hph : (b.start p).phase ≠ .idle := nofun
  rw [Block.ticksLeft_of_ne_idle hph, hcnt]
  simp only [Block.start, Phase.delaysAfter, Phase.waitsAfter, Params.maxTicks, Params.startTicks]
  omega

/-- Entering a phase whose own count and all that follows it were counted already. -/
theorem Block.Running.ticksLeft_enter_lt (h : b.Running p) (hp : p.Legal) (hph : b'.phase ≠ .idle)
    (hcnt : b'.cnt = counterOf (b'.phase.load p))
    (hle : b'.phase.load p + b'.phase.delaysAfter p + b'.phase.waitsAfter b'.nbit.toNat * p.budget ≤
      b.phase.delaysAfter p + b.phase.waitsAfter b.nbit.toNat * p.budget) :
    b'.ticksLeft p < b.ticksLeft p := by
  obtain ⟨hlow, -⟩ := h.cnt
  obtain ⟨-, hload⟩ := Phase.load_bounds hp hph
  rw [Block.ticksLeft_of_ne_idle hph, Block.ticksLeft_of_ne_idle h.phase, hcnt, counterOf_toNat hload]
  omega

theorem Phase.delaysAfter_of_isWait {ph : Phase} (h : ph.isWait = true) : ph.delaysAfter p = 0 := by
  cases ph <;> cases h <;> rfl

/-- Entering a wait, which is one of those that followed. -/
theorem Block.Running.ticksLeft_enterWait_lt (h : b.Running p) (hp : p.Legal) (hph : b'.phase.isWait = true)
    (hcnt : b'.cnt = counterOf p.budget)
    (hwaits : b'.phase.waitsAfter b'.nbit.toNat + 1 ≤ b.phase.waitsAfter b.nbit.toNat) :
    b'.ticksLeft p < b.ticksLeft p := by
  have hload : b'.phase.load p = p.budget := Phase.load_of_isWait hph
  refine h.ticksLeft_enter_lt hp (Phase.ne_idle_of_isWait hph) (hload ▸ hcnt) ?_
  calc b'.phase.load p + b'.phase.delaysAfter p + b'.phase.waitsAfter b'.nbit.toNat * p.budget
      = (b'.phase.waitsAfter b'.nbit.toNat + 1) * p.budget := by
        rw [hload, Phase.delaysAfter_of_isWait hph, Nat.succ_mul]; omega
    _ ≤ b.phase.waitsAfter b.nbit.toNat * p.budget := Nat.mul_le_mul_right _ hwaits
    _ ≤ _ := Nat.le_add_left _ _

theorem Phase.waitsAfter_nextWait {ph ph' : Phase} (h : ph.nextWait = some ph') (n : Nat) :
    ph'.waitsAfter n + 1 ≤ ph.waitsAfter n := by
  cases ph <;> cases h <;> simp only [Phase.waitsAfter] <;> omega

/-- Every tick of a running block leaves fewer ticks to come. -/
theorem Block.TickTo.ticksLeft_lt (ht : b.TickTo p smp b') (hp : p.Legal) (h : b.Running p) :
    b'.ticksLeft p < b.ticksLeft p := by
  cases ht with
  | idle hph => exact absurd hph h.phase
  | count hph =>
    obtain ⟨hlow, -⟩ := h.cnt
    have hpred := cnt_pred_toNat hlow
    rw [Block.ticksLeft_of_ne_idle hph, Block.ticksLeft_of_ne_idle (b := { b with cnt := b.cnt - 1#16 }) hph]
    dsimp only
    omega
  | endLow1 hph =>
    refine h.ticksLeft_enter_lt hp nofun rfl ?_
    rw [hph]
    exact le_rfl
  | endLow2 hph =>
    refine h.ticksLeft_enter_lt hp nofun rfl ?_
    rw [hph]
    exact le_rfl
  | endReady hph => exact h.ticksLeft_enterWait_lt hp rfl rfl (by rw [hph]; exact le_rfl)
  | edge hph =>
    obtain ⟨-, hw⟩ := Phase.nextWait_isWait hph
    exact h.ticksLeft_enterWait_lt hp hw rfl (Phase.waitsAfter_nextWait hph _)
  | bitEdge hph hs hn =>
    refine h.ticksLeft_enterWait_lt hp rfl rfl ?_
    have hle := h.nbit
    have hne : b.nbit.toNat ≠ 39 := fun e => hn (BitVec.eq_of_toNat_eq e)
    have hnext : (b.nbit + 1#6).toNat = b.nbit.toNat + 1 := by bv_omega
    rw [hph]
    simp only [Block.enterWait_eq, Block.enterDelay_phase, Block.enterDelay_nbit, hnext, Phase.waitsAfter]
    omega
  | frameEnd => rw [Block.ticksLeft_of_idle (Block.frameEnd_phase _ _)]; exact h.ticksLeft_pos
  | ackTimeout => rw [Block.ackFail_eq, Block.ticksLeft_of_idle rfl]; exact h.ticksLeft_pos
  | bitTimeout => rw [Block.byteFail_eq, Block.ticksLeft_of_idle rfl]; exact h.ticksLeft_pos

end TicksLeft

/-! ### Ticks, one after the other, from an accepted START -/

/-- An acquisition is running, or has completed and nothing has happened since. -/
structure State.Acquired (s : State) : Prop where
  safe : s.Safe
  done : s.blk.phase = .idle → s.blk.done = true

section Ticking
variable {s : State}

theorem State.Acquired.busy_iff (h : s.Acquired) : s.blk.busy = true ↔ s.blk.phase ≠ .idle := by
  obtain ⟨-, ⟨hbusy, -⟩, -⟩ := h.safe
  exact hbusy

theorem State.Acquired.running (h : s.Acquired) (hph : s.blk.phase ≠ .idle) : s.blk.Running s.params := by
  obtain ⟨-, hb⟩ := (State.safe_iff s).1 h.safe
  exact hb.running hph

theorem State.tick_blk_of_idle (h : s.blk.phase = .idle) : s.tick.blk = s.blk := by
  rw [State.tick_blk, Block.tick, h]

theorem State.Acquired.tick (h : s.Acquired) : s.tick.Acquired := by
  obtain ⟨hp, hb⟩ := (State.safe_iff s).1 h.safe
  have ht := Block.tickTo_tick s.params s.sample s.blk
  have hsafe : s.tick.Safe := (State.safe_iff _).2 (by rw [State.tick_params]; exact ⟨hp, ht.safe hp hb⟩)
  refine ⟨hsafe, fun hidle => ?_⟩
  by_cases hph : s.blk.phase = .idle
  · rw [State.tick_blk_of_idle hph]; exact h.done hph
  · rcases ht.keeps_or_completes with ⟨hbusy, -⟩ | ⟨-, -, -, hdone, -⟩
    · obtain ⟨-, ⟨hbusy', -⟩, -⟩ := hsafe
      exact absurd hidle (hbusy'.1 (hbusy.trans (h.busy_iff.2 hph)))
    · exact hdone

theorem State.Acquired.iterate_tick (h : s.Acquired) (n : Nat) : (State.tick^[n] s).Acquired := by
  induction n with
  | zero => exact h
  | succ n ih => rw [Function.iterate_succ_apply']; exact ih.tick

theorem State.iterate_tick_params (s : State) (n : Nat) : (State.tick^[n] s).params = s.params := by
  induction n with
  | zero => rfl
  | succ n ih => rw [Function.iterate_succ_apply', State.tick_params, ih]

/-- WAIT_DONE's test passes exactly when the acquisition has completed. -/
theorem State.Acquired.status_test_iff (h : s.Acquired) :
    statusWord s.blk &&& 3#32 = 2#32 ↔ s.blk.phase = .idle := by
  rw [Machine.status_test_iff, ← Bool.not_eq_true, h.busy_iff, not_not]
  exact ⟨fun ⟨hidle, _⟩ => hidle, fun hidle => ⟨hidle, h.done hidle⟩⟩

theorem State.Acquired.ticksLeft_tick_le (h : s.Acquired) :
    s.tick.blk.ticksLeft s.params ≤ s.blk.ticksLeft s.params - 1 := by
  by_cases hph : s.blk.phase = .idle
  · rw [State.tick_blk_of_idle hph, Block.ticksLeft_of_idle hph]
  · obtain ⟨hp, -⟩ := (State.safe_iff s).1 h.safe
    exact Nat.le_sub_one_of_lt
      ((Block.tickTo_tick s.params s.sample s.blk).ticksLeft_lt hp (h.running hph))

theorem State.Acquired.ticksLeft_iterate_tick_le (h : s.Acquired) (n : Nat) :
    (State.tick^[n] s).blk.ticksLeft s.params ≤ s.blk.ticksLeft s.params - n := by
  induction n with
  | zero => exact le_rfl
  | succ n ih =>
    have hstep := (h.iterate_tick n).ticksLeft_tick_le
    rw [State.iterate_tick_params] at hstep
    rw [Function.iterate_succ_apply']
    omega

/-- When all the ticks that were left have been taken, the acquisition has completed. -/
theorem State.Acquired.idle_of_ticksLeft_le (h : s.Acquired) {n : Nat} (hn : s.blk.ticksLeft s.params ≤ n) :
    (State.tick^[n] s).blk.phase = .idle := by
  by_contra hph
  have hpos := ((h.iterate_tick n).running hph).ticksLeft_pos
  rw [State.iterate_tick_params] at hpos
  have hle := h.ticksLeft_iterate_tick_le n
  omega

/-- Ticks leave an idle block as it is (rule R210). -/
theorem State.iterate_tick_add_blk {m : Nat} (h : (State.tick^[m] s).blk.phase = .idle) (n : Nat) :
    (State.tick^[m + n] s).blk = (State.tick^[m] s).blk := by
  induction n with
  | zero => rfl
  | succ n ih =>
    rw [← Nat.add_assoc, Function.iterate_succ_apply', State.tick_blk_of_idle (by rw [ih]; exact h), ih]

/-- The block that an acquisition leaves is the same, whenever the host looks. -/
theorem State.iterate_tick_blk_unique {m n : Nat} (hm : (State.tick^[m] s).blk.phase = .idle)
    (hn : (State.tick^[n] s).blk.phase = .idle) : (State.tick^[m] s).blk = (State.tick^[n] s).blk := by
  rw [← State.iterate_tick_add_blk hm n, Nat.add_comm, State.iterate_tick_add_blk hn m]

end Ticking

/-! ### The host's reads between ticks -/

/-- `s` after `n` ticks, with the schedule `cs` to come and the words `rs` read. -/
def State.ticked (s : State) (n : Nat) (cs : List ClockCycle) (rs : List Word) : State :=
  { State.tick^[n] s with inputs := cs, reads := rs }

section Ticked
variable {s : State} {cs : List ClockCycle}

@[simp] theorem State.ticked_blk (s : State) (n : Nat) (cs : List ClockCycle) (rs : List Word) :
    (s.ticked n cs rs).blk = (State.tick^[n] s).blk := rfl

@[simp] theorem State.ticked_params (s : State) (n : Nat) (cs : List ClockCycle) (rs : List Word) :
    (s.ticked n cs rs).params = s.params := State.iterate_tick_params s n

/-- A tick touches neither the schedule nor the words read, and looks at neither. -/
theorem State.tick_withInputsReads (s : State) (cs : List ClockCycle) (rs : List Word) :
    ({ s with inputs := cs, reads := rs } : State).tick = { s.tick with inputs := cs, reads := rs } := by
  rcases s with ⟨p, b, i, l, u, d, r⟩
  cases h : b.phase.isWait <;> cases l <;> simp [State.tick, State.takeSample, State.sample, h]

theorem step_ticked (hp : s.params.Legal) (n : Nat) (rs : List Word) :
    step (s.ticked n (ClockCycle.plainTick :: cs) rs) = .next (s.ticked (n + 1) cs rs) := by
  rw [step_plainTick (by rwa [State.ticked_params]) rfl, State.ticked, State.tick_withInputsReads,
    ← Function.iterate_succ_apply' State.tick]
  rfl

theorem run_ticked (hp : s.params.Legal) (g n : Nat) (rs : List Word) :
    run g (s.ticked n (plainTicks g ++ cs) rs) = .next (s.ticked (n + g) cs rs) := by
  induction g generalizing n with
  | zero => rfl
  | succ g ih =>
    rw [plainTicks_succ, List.cons_append, run_succ g (step_ticked hp n rs), ih, Nat.add_right_comm, Nat.add_assoc]

/-- A read after a gap of ticks returns the register as the ticks have left it. -/
theorem hostRead_ticked (hp : s.params.Legal) (r : HostReg) (g n k : Nat) (rs : List Word) :
    hostRead g r (s.ticked n (plainTicks (g + k) ++ cs) rs) =
      some (regRead r.offset (State.tick^[n + g] s).blk,
        s.ticked (n + g) (plainTicks k ++ cs) (regRead r.offset (State.tick^[n + g] s).blk :: rs)) := by
  rw [plainTicks_add, List.append_assoc, hostRead_eq r (run_ticked hp g n rs) (by rwa [State.ticked_params])]
  rfl

/-- WAIT_DONE with polls to cover all the ticks left ends after the acquisition has. -/
theorem State.Acquired.waitDone_ticked (h : s.Acquired) (polls : List Nat) (n k : Nat) (rs : List Word)
    (hn : n < s.blk.ticksLeft s.params) (hpolls : s.blk.ticksLeft s.params ≤ n + polls.sum) :
    ∃ n' k' rs', waitDone polls (s.ticked n (plainTicks (polls.sum + k) ++ cs) rs) =
        some (s.ticked n' (plainTicks (k' + k) ++ cs) rs') ∧
      (State.tick^[n'] s).blk.phase = .idle := by
  obtain ⟨hp, -⟩ := (State.safe_iff s).1 h.safe
  induction polls generalizing n rs with
  | nil => simp only [List.sum_nil] at hpolls; omega
  | cons g polls ih =>
    have htest := (h.iterate_tick (n + g)).status_test_iff
    rw [List.sum_cons, Nat.add_assoc, plainTicks_add, List.append_assoc, waitDone,
      poll_cons polls (by rwa [State.ticked_params]) (run_ticked hp g n rs)]
    by_cases hidle : (State.tick^[n + g] s).blk.phase = .idle
    · exact ⟨n + g, polls.sum, statusWord (State.tick^[n + g] s).blk :: rs, if_pos (htest.2 hidle), hidle⟩
    · have hlt : n + g < s.blk.ticksLeft s.params := by
        by_contra hge
        exact hidle (h.idle_of_ticksLeft_le (Nat.le_of_not_lt hge))
      obtain ⟨n', k', rs', hwait, hidle'⟩ := ih (n + g) _ hlt (by rwa [List.sum_cons, ← Nat.add_assoc] at hpolls)
      exact ⟨n', k', rs', (if_neg (mt htest.1 hidle)).trans hwait, hidle'⟩

/-- The three reads of a completed acquisition return the same block's registers, whatever the gaps. -/
theorem readOutcome_ticked (hp : s.params.Legal) {n : Nat} (hidle : (State.tick^[n] s).blk.phase = .idle)
    (g0 g1 g2 k : Nat) (rs : List Word) :
    ∃ rs', readOutcome g0 g1 g2 (s.ticked n (plainTicks (g0 + (g1 + (g2 + k))) ++ cs) rs) =
      some ((State.tick^[n] s).blk.readResult, s.ticked (n + (g0 + g1 + g2)) (plainTicks k ++ cs) rs') := by
  simp only [readOutcome, hostRead_ticked hp, Nat.add_assoc, State.iterate_tick_add_blk hidle]
  exact ⟨_, rfl⟩

end Ticked

/-! ### READ_FRAME -/

/-- The host's START of an idle block. -/
theorem hostAccess_acquireWord {s : State} (hp : s.params.Legal) (hb : s.blk.busy = false) :
    hostAccess acquireWord s = .next (s.onBlock fun b => b.start s.params) := by
  have hW : htW acquireWord = true := htW_htWord ..
  have hA : htA acquireWord = 0x00#5 := htA_htWord ..
  have hD : htD acquireWord = 1#32 := htD_htWord ..
  rw [hostAccess_eq _ hp, exec_decodeHT_write hW, hA, hD, State.onBlock, regWrite_start rfl rfl hb, State.onBlock]

theorem State.acquired_start {s : State} (hp : s.params.Legal) :
    (s.onBlock fun b => b.start s.params).Acquired :=
  ⟨(State.safe_iff _).2 ⟨hp, (Block.running_start hp (b := s.blk)).safe⟩, nofun⟩

/-- Polls enough for all the ticks left, and the three reads: they return the registers of the block that those ticks
leave, and it stays. -/
theorem State.Acquired.waitDone_readOutcome {s : State} (h : s.Acquired) {polls : List Nat} {g0 g1 g2 k : Nat}
    {cs : List ClockCycle} (hrunning : s.blk.phase ≠ .idle) (hpolls : s.blk.ticksLeft s.params ≤ polls.sum)
    (hinputs : s.inputs = plainTicks (polls.sum + (g0 + (g1 + (g2 + k)))) ++ cs) {b : Block}
    (hb : (State.tick^[s.blk.ticksLeft s.params] s).blk = b) :
    ∃ u t k', waitDone polls s = some u ∧ readOutcome g0 g1 g2 u = some (b.readResult, t) ∧
      t.inputs = plainTicks k' ++ cs ∧ t.blk = b := by
  obtain ⟨hp, -⟩ := (State.safe_iff s).1 h.safe
  obtain ⟨n, k', rs, hwait, hidle⟩ := h.waitDone_ticked (cs := cs) polls 0 (g0 + (g1 + (g2 + k))) s.reads
    (h.running hrunning).ticksLeft_pos (by rwa [Nat.zero_add])
  have hstart : s.ticked 0 (plainTicks (polls.sum + (g0 + (g1 + (g2 + k)))) ++ cs) s.reads = s := by
    rw [← hinputs]; rfl
  have hlast : k' + (g0 + (g1 + (g2 + k))) = g0 + (g1 + (g2 + (k' + k))) := by omega
  have hblk : (State.tick^[n] s).blk = b :=
    (State.iterate_tick_blk_unique hidle (h.idle_of_ticksLeft_le le_rfl)).trans hb
  obtain ⟨rs', hread⟩ := readOutcome_ticked (cs := cs) hp hidle g0 g1 g2 (k' + k) rs
  rw [hstart, hlast] at hwait
  rw [hblk] at hread
  exact ⟨_, _, k' + k, hwait, hread, rfl, (State.iterate_tick_add_blk hidle _).trans hblk⟩

/-- Settles O49: every spacing reads the block that the ticks of the longest acquisition leave, which is safe and has
completed. -/
theorem readFrameReturns : Obligations.ReadFrameReturns := by
  intro s N cs hs hidle hinputs
  obtain ⟨hp, -⟩ := (State.safe_iff s).1 hs
  have hacq := State.acquired_start hp
  have hmax := Block.ticksLeft_start hp s.blk
  have hend := hacq.iterate_tick s.params.maxTicks
  have hdone := hend.done (hacq.idle_of_ticksLeft_le hmax.le)
  obtain ⟨-, hsafe⟩ := (State.safe_iff _).1 hend.safe
  obtain ⟨r, hr, hsum⟩ := Block.readResult_of_done hsafe hdone
  refine ⟨r, fun polls g0 g1 g2 hpolls hN => ?_⟩
  obtain ⟨k, rfl⟩ := Nat.exists_eq_add_of_le hN
  simp only [Nat.add_assoc] at hinputs
  obtain ⟨u, t, k', hwait, hread, hleft, hblk⟩ := hacq.waitDone_readOutcome nofun (hmax.trans_le hpolls) hinputs
    (congrArg (fun n => (State.tick^[n] _).blk) hmax)
  refine ⟨t, k', ?_, hleft, hblk ▸ hdone, hblk ▸ hr, hsum⟩
  simp only [readFrame, hostAccess_acquireWord hp hidle, hwait, hread, hr]

end Sys2Proof.Machine
end

section
/-! PROOFS. The edge waits (40_edge_wait.md): what one tick of a wait does, the run-length law, the ticks of a delay
and of a data bit, and a whole acquisition from START to the frame's end. -/

namespace Sys2Proof.Machine

/-! ### What ends a wait (rules R100 to R103) -/

/-- `OnEdge` of a wait phase (30_encoding.md rule R74): the next wait, or the measured bit. -/
def Phase.onEdge (p : Params) (ph : Phase) (c : BitVec 16) (b : Block) : Block :=
  match ph.nextWait with
  | some ph' => b.enterWait p ph'
  | none => b.bitEdge p c

/-- `OnTimeout` of a wait phase (rule R74): the failed ACK stage, or the failed wait of a bit. -/
def Phase.onTimeout (p : Params) (ph : Phase) (b : Block) : Block :=
  match ph.ackStage, ph.bitWait with
  | some stage, _ => b.ackFail p stage
  | none, some wait => b.byteFail wait
  | none, none => b

section Waits
variable {p : Params} {ph ph' : Phase} {L smp : Level} {b : Block} {s : State}

theorem Phase.isWait_of_levelToLeave (hL : ph.levelToLeave = some L) : ph.isWait = true := by
  rw [Phase.isWait, hL]; rfl

/-- The five wait phases run one rule, each with its own level and actions. -/
theorem exec_wait (hL : ph.levelToLeave = some L) (s : State) :
    exec ph.instr s = .next (s.onSample (waitTick L (ph.onEdge s.params) (ph.onTimeout s.params))) := by
  cases ph <;> cases hL <;> rfl

theorem Block.tick_wait (hL : b.phase.levelToLeave = some L) :
    b.tick p smp = waitTick L (b.phase.onEdge p) (b.phase.onTimeout p) smp b := by
  unfold Block.tick
  cases hph : b.phase <;> rw [hph] at hL <;> cases hL <;> rfl

theorem State.onSample_eq (f : Level → Block → Block) (s : State) :
    s.onSample f = { s.takeSample with blk := f s.sample s.blk } := by
  simp only [State.onSample, State.onBlock, State.takeSample_blk]

theorem exec_wait_count (hL : ph.levelToLeave = some s.sample) (hc : s.blk.cnt ≠ 1#16) :
    exec ph.instr s = .next { s.takeSample with blk := { s.blk with cnt := s.blk.cnt - 1#16 } } := by
  rw [exec_wait hL, State.onSample_eq, waitTick_count hc]

theorem exec_wait_edge (hL : ph.levelToLeave = some (!s.sample)) :
    exec ph.instr s = .next { s.takeSample with blk := ph.onEdge s.params s.blk.cnt s.blk } := by
  rw [exec_wait hL, State.onSample_eq, waitTick_edge (Bool.self_ne_not s.sample)]

theorem Phase.onEdge_of_nextWait (h : ph.nextWait = some ph') (c : BitVec 16) :
    ph.onEdge p c b = b.enterWait p ph' := by
  rw [Phase.onEdge, h]

theorem Phase.onEdge_bitMeasureHigh (c : BitVec 16) : Phase.onEdge p .bitMeasureHigh c b = b.bitEdge p c := rfl

theorem exec_wait_nextWait (hnext : ph.nextWait = some ph') (hL : ph.levelToLeave = some (!s.sample)) :
    exec ph.instr s = .next { s.takeSample with blk := s.blk.enterWait s.params ph' } := by
  rw [exec_wait_edge hL, Phase.onEdge_of_nextWait hnext]

end Waits

/-- Settles O25: a sample at the level to leave, in each wait phase. -/
theorem waitTicksCountDown : Obligations.WaitTicksCountDown := by
  intro s hc
  refine ⟨fun hs => ⟨?_, ?_, ?_⟩, fun hs => ⟨?_, ?_⟩⟩
  · exact exec_wait_count (ph := .ackWaitLow) (hs ▸ rfl) hc
  · exact exec_wait_count (ph := .ackWaitRelease) (hs ▸ rfl) hc
  · exact exec_wait_count (ph := .bitMeasureHigh) (hs ▸ rfl) hc
  · exact exec_wait_count (ph := .ackWaitHigh) (hs ▸ rfl) hc
  · exact exec_wait_count (ph := .bitWaitGuard) (hs ▸ rfl) hc

/-- Settles O26: a sample that is not the level to leave, in each wait phase that another wait follows. -/
theorem waitEdgesEnterTheNextWait : Obligations.WaitEdgesEnterTheNextWait := by
  intro s
  refine ⟨fun hs => ⟨?_, ?_⟩, fun hs => ⟨?_, ?_⟩⟩
  · exact exec_wait_nextWait (ph := .ackWaitLow) rfl (hs ▸ rfl)
  · exact exec_wait_nextWait (ph := .ackWaitRelease) rfl (hs ▸ rfl)
  · exact exec_wait_nextWait (ph := .ackWaitHigh) rfl (hs ▸ rfl)
  · exact exec_wait_nextWait (ph := .bitWaitGuard) rfl (hs ▸ rfl)

/-! ### The measured bit (rules R103 and R161 to R163) -/

theorem shiftIn_classify (p : Params) (sr : BitVec 40) (k : Nat) :
    shiftIn sr (classify p k) = (sr <<< 1) ||| if p.threshNs < k * p.tickNs then 1#40 else 0#40 := by
  by_cases h : p.threshNs < k * p.tickNs <;> simp [shiftIn, classify, h]

/-- The edge of a measured pulse shifts its bit in, the last bit's too. -/
theorem Block.bitEdge_sr (p : Params) (c : BitVec 16) (b : Block) :
    (b.bitEdge p c).sr = shiftIn b.sr (classify p (width p c)) := by
  by_cases h : b.nbit = 39#6
  · rw [Block.bitEdge_last p b c h, Block.frameEnd_sr]
  · rw [Block.bitEdge_more p b c h]

/-- Settles O33: the success action of BIT_MEASURE_HIGH on a bit that is not the last. -/
theorem measuredBitIsShiftedIn : Obligations.MeasuredBitIsShiftedIn := by
  intro s hs hn
  have hedge := exec_wait_edge (s := s) (ph := .bitMeasureHigh) (hs ▸ rfl)
  have hbit := Block.bitEdge_more s.params s.blk s.blk.cnt hn
  rw [shiftIn_classify] at hbit
  exact hedge.trans (congrArg (fun b => Host.Outcome.next { s.takeSample with blk := b }) hbit)

/-! ### A wait, tick by tick (rule R104) -/

section Counting
variable {s : State} {L : Level} {ls : List Level} {c m N : Nat} {ph : Phase}

theorem budget_bounds {p : Params} (hp : p.Legal) : 1 ≤ p.budget ∧ p.budget ≤ 65535 := by
  obtain ⟨-, hbudget, -⟩ := hp
  exact hbudget

/-- A wait tick takes the next listed level. -/
theorem State.tick_wait {smp : Level} (hL : s.blk.phase.levelToLeave = some L) (hline : s.line = smp :: ls) :
    s.tick = { s with
      line := ls
      blk := waitTick L (s.blk.phase.onEdge s.params) (s.blk.phase.onTimeout s.params) smp s.blk } := by
  rw [State.tick, if_pos (Phase.isWait_of_levelToLeave hL), State.takeSample_of_line s hline,
    State.sample_of_line s hline, Block.tick_wait hL]

theorem State.tick_edge (hL : s.blk.phase.levelToLeave = some L) (hline : s.line = (!L) :: ls) :
    s.tick = { s with line := ls, blk := s.blk.phase.onEdge s.params s.blk.cnt s.blk } := by
  rw [State.tick_wait hL hline, waitTick_edge (Bool.not_ne_self L)]

theorem State.tick_timeout (hL : s.blk.phase.levelToLeave = some L) (hline : s.line = L :: ls)
    (hcnt : s.blk.cnt = 1#16) :
    s.tick = { s with line := ls, blk := s.blk.phase.onTimeout s.params s.blk } := by
  rw [State.tick_wait hL hline, waitTick_timeout hcnt]

/-- As long as the level to leave lasts and the counter does too, a wait only counts down. -/
theorem State.iterate_tick_count (hL : s.blk.phase.levelToLeave = some L) (hcnt : s.blk.cnt = counterOf c)
    (hc : c ≤ 65535) (hm : m < c) (hline : s.line = List.replicate m L ++ ls) :
    State.tick^[m] s = { s with line := ls, blk := { s.blk with cnt := counterOf (c - m) } } := by
  induction m generalizing s c with
  | zero => rw [Function.iterate_zero_apply, Nat.sub_zero, ← hcnt, ← show s.line = ls from hline]
  | succ m ih =>
    obtain ⟨c, rfl⟩ : ∃ k, c = k + 1 := ⟨c - 1, by omega⟩
    have hne : s.blk.cnt ≠ 1#16 := by rw [hcnt, Ne, counterOf_eq_one hc]; omega
    rw [Function.iterate_succ_apply, State.tick_wait hL hline, waitTick_count hne, hcnt, counterOf_succ_pred,
      Nat.add_sub_add_right]
    exact ih (c := c) hL rfl (by omega) (by omega) rfl

/-- The level to leave for `N - 1` samples, and then the edge, with the counter that `N - 1` samples leave. -/
theorem State.iterate_tick_edge (hL : s.blk.phase.levelToLeave = some L) (hcnt : s.blk.cnt = counterOf c)
    (hc : c ≤ 65535) (hpos : 1 ≤ N) (hN : N ≤ c) (hline : s.line = List.replicate (N - 1) L ++ (!L) :: ls) :
    State.tick^[N] s = { s with
      line := ls
      blk := s.blk.phase.onEdge s.params (counterOf (c - (N - 1)))
        { s.blk with cnt := counterOf (c - (N - 1)) } } := by
  have hcount := State.iterate_tick_count hL hcnt hc (m := N - 1) (by omega) hline
  rw [← Nat.sub_add_cancel hpos, Function.iterate_succ_apply', Nat.sub_add_cancel hpos, hcount]
  exact State.tick_edge hL rfl

/-- The level to leave for as many samples as the counter allows. -/
theorem State.iterate_tick_timeout (hL : s.blk.phase.levelToLeave = some L) (hcnt : s.blk.cnt = counterOf c)
    (hc : c ≤ 65535) (hpos : 1 ≤ c) (hline : s.line = List.replicate c L ++ ls) :
    State.tick^[c] s = { s with
      line := ls, blk := s.blk.phase.onTimeout s.params { s.blk with cnt := 1#16 } } := by
  obtain ⟨c, rfl⟩ : ∃ k, c = k + 1 := ⟨c - 1, by omega⟩
  rw [List.replicate_succ', List.append_assoc] at hline
  rw [Function.iterate_succ_apply', State.iterate_tick_count hL hcnt hc c.lt_succ_self hline, Nat.add_sub_cancel_left]
  exact State.tick_timeout hL rfl rfl

theorem width_counterOf {p : Params} (hp : p.Legal) (hpos : 1 ≤ N) (hN : N ≤ p.budget) :
    width p (counterOf (p.budget - (N - 1))) = N := by
  obtain ⟨-, hfits⟩ := budget_bounds hp
  rw [width, counterOf_toNat (by omega)]
  omega

/-- A run within the ticks that a schedule begins with. -/
theorem run_plainTicks_le {cs : List ClockCycle} (hp : s.params.Legal) (hm : m ≤ N)
    (hinputs : s.inputs = plainTicks N ++ cs) :
    run m s = .next { State.tick^[m] s with inputs := plainTicks (N - m) ++ cs } := by
  obtain ⟨k, rfl⟩ := Nat.exists_eq_add_of_le hm
  rw [plainTicks_add, List.append_assoc] at hinputs
  rw [run_plainTicks hp hinputs, Nat.add_sub_cancel_left]

/-- Until its edge or its timeout, a run of a wait only counts down. -/
theorem run_wait_count {cs : List ClockCycle} {smps : List Level} (hp : s.params.Legal)
    (hL : s.blk.phase.levelToLeave = some L) (hcnt : s.blk.cnt = counterOf s.params.budget)
    (hN : N ≤ s.params.budget) (hline : s.line = List.replicate (N - 1) L ++ smps)
    (hinputs : s.inputs = plainTicks N ++ cs) :
    ∀ m < N, ∃ t, run m s = .next t ∧ t.blk = { s.blk with cnt := counterOf (s.params.budget - m) } ∧
      t.line = s.line.drop m := by
  intro m hm
  obtain ⟨-, hfits⟩ := budget_bounds hp
  have hsplit : s.line = List.replicate m L ++ s.line.drop m := by
    conv_lhs => rw [← List.take_append_drop m s.line]
    rw [hline, List.take_append_of_le_length (by simp; omega), List.take_replicate, Nat.min_eq_left (by omega)]
  have hcount := State.iterate_tick_count hL hcnt hfits (by omega) hsplit
  exact ⟨_, run_plainTicks_le hp hm.le hinputs, by rw [hcount], by rw [hcount]⟩

end Counting

section Actions
variable {p : Params} {ph : Phase} {c : BitVec 16} {b : Block}

/-- A wait that ends does not go on in the same phase. -/
theorem Phase.onEdge_phase_ne (hw : ph.isWait = true) : (ph.onEdge p c b).phase ≠ ph := by
  cases ph with
  | bitMeasureHigh =>
    rw [Phase.onEdge_bitMeasureHigh]
    by_cases hn : b.nbit = 39#6
    · rw [Block.bitEdge_last p b c hn, Block.frameEnd_phase]; nofun
    · rw [Block.bitEdge_more p b c hn]; nofun
  | ackWaitLow => nofun
  | ackWaitHigh => nofun
  | ackWaitRelease => nofun
  | bitWaitGuard => nofun
  | _ => cases hw

/-- A timeout completes with the failure of its phase (rules R143 and R165). -/
theorem Phase.onTimeout_completes (hw : ph.isWait = true) :
    (ph.onTimeout p b).phase = .idle ∧ (ph.onTimeout p b).busy = false ∧ (ph.onTimeout p b).done = true ∧
    (ph.onTimeout p b).result = if ph = .bitWaitGuard ∨ ph = .bitMeasureHigh then .byteFail else .ackFail := by
  cases ph with
  | bitWaitGuard => exact ⟨rfl, rfl, rfl, rfl⟩
  | bitMeasureHigh => exact ⟨rfl, rfl, rfl, rfl⟩
  | ackWaitLow => exact ⟨rfl, rfl, rfl, rfl⟩
  | ackWaitHigh => exact ⟨rfl, rfl, rfl, rfl⟩
  | ackWaitRelease => exact ⟨rfl, rfl, rfl, rfl⟩
  | _ => cases hw

end Actions

/-- Settles O29: the count-down, and then the tick that ends the wait. -/
theorem runLengthLaw : Obligations.RunLengthLaw := by
  intro s L N ls cs hp hL hcnt hpos
  obtain ⟨hbudget, hfits⟩ := budget_bounds hp
  have hwait := Phase.isWait_of_levelToLeave hL
  constructor
  · intro hN hline hinputs
    have hedge := State.iterate_tick_edge hL hcnt hfits hpos hN hline
    refine ⟨run_wait_count hp hL hcnt hN hline hinputs, _, run_plainTicks hp hinputs, by rw [hedge], rfl, ?_⟩
    rw [hedge]
    refine ⟨Phase.onEdge_phase_ne hwait, fun hph => ?_, fun hph => ?_, fun hph => ?_, fun hph => ?_, fun hph => ?_⟩
    · exact Phase.onEdge_of_nextWait (hph ▸ rfl) _
    · exact Phase.onEdge_of_nextWait (hph ▸ rfl) _
    · exact Phase.onEdge_of_nextWait (hph ▸ rfl) _
    · exact Phase.onEdge_of_nextWait (hph ▸ rfl) _
    · dsimp only
      rw [hph, Phase.onEdge_bitMeasureHigh, Block.bitEdge_sr, width_counterOf hp hpos hN, shiftIn_classify]
  · intro hN hline hinputs
    obtain ⟨k, hk⟩ : ∃ k, N - 1 = s.params.budget + k := ⟨N - 1 - s.params.budget, by omega⟩
    rw [hk, List.replicate_add, List.append_assoc] at hline
    have hpred : s.line = List.replicate (s.params.budget - 1) L ++ L :: (List.replicate k L ++ ls) := by
      rw [hline, List.append_cons, ← List.replicate_succ', Nat.sub_add_cancel hbudget]
    have htimeout := State.iterate_tick_timeout hL hcnt hfits hbudget hline
    refine ⟨run_wait_count hp hL hcnt le_rfl hpred hinputs, _, run_plainTicks hp hinputs, ?_, rfl, ?_⟩
    · rw [htimeout, hline, List.drop_left' List.length_replicate]
    · rw [htimeout]
      exact Phase.onTimeout_completes hwait

/-! ### A delay, tick by tick (41_start_sequence.md rules R120 to R122) -/

/-- What the last tick of a delay phase does. -/
def Phase.onEnd (p : Params) : Phase → Block → Block
  | .startLow1 => Block.enterDelay .startLow2 p.tLow2
  | .startLow2 => fun b => (b.enterDelay .startReady p.tReady).drive true true
  | .startReady => fun b => (b.drive false b.lineOut).enterWait p .ackWaitLow
  | _ => id

theorem Block.tick_delay {p : Params} {smp : Level} {b : Block} (hidle : b.phase ≠ .idle)
    (hw : b.phase.isWait = false) : b.tick p smp = delayTick (b.phase.onEnd p) b := by
  unfold Block.tick
  cases hph : b.phase with
  | idle => exact absurd hph hidle
  | startLow1 => rfl
  | startLow2 => rfl
  | startReady => rfl
  | _ => rw [hph] at hw; cases hw

section Acquisition
variable {s t u : State} {p : Params} {c g k l m n h : Nat} {ls : List Level}

/-- A tick of a delay takes no sample. -/
theorem State.tick_delay (hidle : s.blk.phase ≠ .idle) (hw : s.blk.phase.isWait = false) :
    s.tick = { s with blk := delayTick (s.blk.phase.onEnd s.params) s.blk } := by
  rw [State.tick, if_neg (Bool.eq_false_iff.1 hw), Block.tick_delay hidle hw]

theorem State.tick_delay_last (hidle : s.blk.phase ≠ .idle) (hw : s.blk.phase.isWait = false)
    (hcnt : s.blk.cnt = 1#16) : s.tick = { s with blk := s.blk.phase.onEnd s.params s.blk } := by
  rw [State.tick_delay hidle hw, delayTick_last hcnt]

theorem State.iterate_tick_delay_count (hidle : s.blk.phase ≠ .idle) (hw : s.blk.phase.isWait = false)
    (hcnt : s.blk.cnt = counterOf c) (hc : c ≤ 65535) (hm : m < c) :
    State.tick^[m] s = { s with blk := { s.blk with cnt := counterOf (c - m) } } := by
  induction m generalizing s c with
  | zero => rw [Function.iterate_zero_apply, Nat.sub_zero, ← hcnt]
  | succ m ih =>
    obtain ⟨c, rfl⟩ : ∃ k, c = k + 1 := ⟨c - 1, by omega⟩
    have hne : s.blk.cnt ≠ 1#16 := by rw [hcnt, Ne, counterOf_eq_one hc]; omega
    rw [Function.iterate_succ_apply, State.tick_delay hidle hw, delayTick_count hne, hcnt, counterOf_succ_pred,
      Nat.add_sub_add_right]
    exact ih (c := c) hidle hw rfl (by omega) (by omega)

/-- A delay lasts as many ticks as its phase loads. -/
theorem State.iterate_tick_delay (hp : s.params.Legal) (hidle : s.blk.phase ≠ .idle)
    (hw : s.blk.phase.isWait = false) (hcnt : s.blk.cnt = counterOf (s.blk.phase.load s.params)) :
    State.tick^[s.blk.phase.load s.params] s =
      { s with blk := s.blk.phase.onEnd s.params { s.blk with cnt := 1#16 } } := by
  obtain ⟨hpos, hfits⟩ := Phase.load_bounds hp hidle
  obtain ⟨c, hc⟩ : ∃ k, s.blk.phase.load s.params = k + 1 := ⟨_, (Nat.sub_add_cancel hpos).symm⟩
  rw [hc] at hcnt hfits ⊢
  rw [Function.iterate_succ_apply', State.iterate_tick_delay_count hidle hw hcnt hfits c.lt_succ_self,
    Nat.add_sub_cancel_left]
  exact State.tick_delay_last hidle hw rfl

/-! ### A whole acquisition, phase by phase -/

theorem State.iterate_tick_add (hm : State.tick^[m] s = u) (hn : State.tick^[n] u = t) :
    State.tick^[m + n] s = t := by
  rw [Nat.add_comm, Function.iterate_add_apply, hm, hn]

/-- The start sequence ends in input mode, at the first ACK wait. -/
theorem State.iterate_tick_start (hp : s.params.Legal) :
    State.tick^[s.params.startTicks] (s.onBlock fun b => b.start s.params) = { s with
      blk := { s.blk.start s.params with
        phase := .ackWaitLow, cnt := counterOf s.params.budget, lineOe := false, lineOut := true } } := by
  have low1 := State.iterate_tick_delay (s := s.onBlock fun b => b.start s.params) hp nofun rfl rfl
  have low2 := State.iterate_tick_add low1 (State.iterate_tick_delay hp nofun rfl rfl)
  have ready := State.iterate_tick_add low2 (State.iterate_tick_delay hp nofun rfl rfl)
  exact ready

/-- A wait that another wait follows, to its edge. -/
theorem State.iterate_tick_nextWait {ph : Phase} {L : Level} (hp : s.params.Legal)
    (hnext : s.blk.phase.nextWait = some ph) (hL : s.blk.phase.levelToLeave = some L)
    (hcnt : s.blk.cnt = counterOf s.params.budget) (hpos : 1 ≤ n) (hn : n ≤ s.params.budget)
    (hline : s.line = List.replicate (n - 1) L ++ (!L) :: ls) :
    State.tick^[n] s = { s with line := ls, blk := s.blk.enterWait s.params ph } := by
  obtain ⟨-, hfits⟩ := budget_bounds hp
  rw [State.iterate_tick_edge hL hcnt hfits hpos hn hline, Phase.onEdge_of_nextWait hnext]
  rfl

/-- The three ACK waits. -/
theorem State.iterate_tick_handshake (hp : s.params.Legal) (hph : s.blk.phase = .ackWaitLow)
    (hcnt : s.blk.cnt = counterOf s.params.budget) (hn : n + 1 ≤ s.params.budget) (hl1 : 1 ≤ l)
    (hl : l ≤ s.params.budget) (hh1 : 1 ≤ h) (hh : h ≤ s.params.budget)
    (hline : s.line = high n ++ false :: (low (l - 1) ++ true :: (high (h - 1) ++ false :: ls))) :
    State.tick^[n + 1 + l + h] s = { s with line := ls, blk := s.blk.enterWait s.params .bitWaitGuard } := by
  have waitLow := State.iterate_tick_nextWait (L := true) hp (by rw [hph]; rfl) (by rw [hph]; rfl) hcnt n.succ_pos hn
    hline
  have waitHigh := State.iterate_tick_add waitLow (State.iterate_tick_nextWait hp rfl rfl rfl hl1 hl rfl)
  exact State.iterate_tick_add waitHigh (State.iterate_tick_nextWait hp rfl rfl rfl hh1 hh rfl)

/-- A data bit, to the last sample of its high pulse. -/
theorem State.iterate_tick_bit_high (hp : s.params.Legal) (hph : s.blk.phase = .bitWaitGuard)
    (hcnt : s.blk.cnt = counterOf s.params.budget) (hg1 : 1 ≤ g) (hg : g ≤ s.params.budget) (hk1 : 1 ≤ k)
    (hk : k ≤ s.params.budget) (hline : s.line = low (g - 1) ++ true :: (high (k - 1) ++ ls)) :
    State.tick^[g + (k - 1)] s = { s with
      line := ls
      blk := { s.blk with phase := .bitMeasureHigh, cnt := counterOf (s.params.budget - (k - 1)) } } := by
  obtain ⟨-, hfits⟩ := budget_bounds hp
  have guard := State.iterate_tick_nextWait (L := false) hp (by rw [hph]; rfl) (by rw [hph]; rfl) hcnt hg1 hg hline
  exact State.iterate_tick_add guard (State.iterate_tick_count rfl rfl hfits (by omega) rfl)

/-- The edge of a bit that is not the last. -/
theorem State.tick_bitEdge (hph : s.blk.phase = .bitMeasureHigh) (hline : s.line = false :: ls)
    (hnbit : s.blk.nbit ≠ 39#6) (hk : width s.params s.blk.cnt = k) :
    s.tick = { s with
      line := ls
      blk := { s.blk with
        sr := shiftIn s.blk.sr (classify s.params k), nbit := s.blk.nbit + 1#6
        phase := .bitWaitGuard, cnt := counterOf s.params.budget } } := by
  rw [State.tick_edge (L := true) (by rw [hph]; rfl) hline, hph, ← hk, ← Block.bitEdge_more _ _ _ hnbit,
    Phase.onEdge_bitMeasureHigh]

/-- The edge of the last bit. -/
theorem State.tick_frameEnd {v : BitVec 40} (hph : s.blk.phase = .bitMeasureHigh) (hline : s.line = false :: ls)
    (hnbit : s.blk.nbit = 39#6) (hv : shiftIn s.blk.sr (classify s.params (width s.params s.blk.cnt)) = v) :
    s.tick = { s with line := ls, blk := { s.blk with sr := v }.frameEnd v } := by
  rw [State.tick_edge (L := true) (by rw [hph]; rfl) hline, hph, ← hv, ← Block.bitEdge_last _ _ _ hnbit,
    Phase.onEdge_bitMeasureHigh]

/-- A data bit that is not the last, to the next bit's guard. -/
theorem State.iterate_tick_bit (hp : s.params.Legal) (hph : s.blk.phase = .bitWaitGuard)
    (hcnt : s.blk.cnt = counterOf s.params.budget) (hnbit : s.blk.nbit ≠ 39#6) (hg1 : 1 ≤ g)
    (hg : g ≤ s.params.budget) (hk1 : 1 ≤ k) (hk : k ≤ s.params.budget)
    (hline : s.line = low (g - 1) ++ true :: (high (k - 1) ++ false :: ls)) :
    State.tick^[g + k] s = { s with
      line := ls
      blk := { s.blk with
        sr := shiftIn s.blk.sr (classify s.params k), nbit := s.blk.nbit + 1#6
        phase := .bitWaitGuard, cnt := counterOf s.params.budget } } := by
  have pulse := State.iterate_tick_bit_high hp hph hcnt hg1 hg hk1 hk hline
  have edge := State.iterate_tick_add (n := 1) pulse
    (State.tick_bitEdge rfl rfl hnbit (width_counterOf hp hk1 hk))
  rw [Nat.add_assoc, Nat.sub_add_cancel hk1] at edge
  exact edge

/-! ### The stream of bits -/

/-- The frame register `sr` after the bits of a wave have been shifted in (rules R162 and R163). -/
def frameOf (p : Params) (bits : List (Nat × Nat)) (sr : BitVec 40) : BitVec 40 :=
  (bits.map fun x => classify p x.2).foldl shiftIn sr

theorem frameOf_append_singleton (p : Params) (bits : List (Nat × Nat)) (x : Nat × Nat) (sr : BitVec 40) :
    frameOf p (bits ++ [x]) sr = shiftIn (frameOf p bits sr) (classify p x.2) := by
  simp only [frameOf, List.map_append, List.map_cons, List.map_nil, List.foldl_append, List.foldl_cons, List.foldl_nil]

/-- A frame is the one word whose bits are the stream's. -/
theorem frameOf_eq {bits : List (Nat × Nat)} {v : BitVec 40} (hlen : bits.length = 40)
    (hv : ∀ j, ∀ hj : j < bits.length, v.getLsbD (39 - j) = classify p (bits[j]).2) : frameOf p bits 0#40 = v := by
  apply BitVec.eq_of_getLsbD_eq
  intro i hi
  have hbit := getLsbD_foldl_shiftIn 0#40 (bits.map fun x => classify p x.2) (by simp [hlen])
    (n := 39 - i) (by simp [hlen]; omega)
  have hpos : 39 - (39 - i) = i := by omega
  rw [List.getElem_map, ← hv, List.length_map, hlen, hpos] at hbit
  exact hbit

theorem bitWave_append (xs ys : List (Nat × Nat)) : bitWave (xs ++ ys) = bitWave xs ++ bitWave ys := by
  induction xs with
  | nil => rfl
  | cons x xs ih => simp only [List.cons_append, bitWave, ih, List.append_assoc]

theorem low_succ_pred (hg : 1 ≤ g) : low g = false :: low (g - 1) := by
  rw [low, ← Nat.sub_add_cancel hg]; rfl

theorem high_succ_pred (hk : 1 ≤ k) : high k = true :: high (k - 1) := by
  rw [high, ← Nat.sub_add_cancel hk]; rfl

/-- Bits begin with a guard low, so when a low sample follows them the next sample is low in any case: the edge that
ends the wait before them. -/
theorem bitWave_append_false {bits : List (Nat × Nat)} (hbits : ∀ x ∈ bits, 1 ≤ x.1) :
    bitWave bits ++ false :: ls = false :: (bitWave bits ++ false :: ls).tail := by
  cases bits with
  | nil => rfl
  | cons x bits => rw [bitWave, low_succ_pred (hbits x List.mem_cons_self)]; rfl

theorem bitWave_cons_tail {x : Nat × Nat} (bits : List (Nat × Nat)) (hg : 1 ≤ x.1) (hk : 1 ≤ x.2) :
    (bitWave (x :: bits) ++ ls).tail = low (x.1 - 1) ++ true :: (high (x.2 - 1) ++ (bitWave bits ++ ls)) := by
  rw [bitWave, low_succ_pred hg, high_succ_pred hk]
  simp

/-- The waveform cut at the edges: each wait's level to leave, and the sample that ends it. -/
theorem wave_append {bits : List (Nat × Nat)} (hl : 1 ≤ l) (hh : 1 ≤ h) (hbits : ∀ x ∈ bits, 1 ≤ x.1) :
    wave n l h bits ++ false :: ls =
      high n ++ false :: (low (l - 1) ++ true :: (high (h - 1) ++ false :: (bitWave bits ++ false :: ls).tail)) := by
  rw [← bitWave_append_false hbits, wave, low_succ_pred hl, high_succ_pred hh]
  simp

/-- Bits of which none is bit 39 are shifted in one after the other. -/
theorem State.iterate_tick_bits {bits : List (Nat × Nat)} (hp : s.params.Legal) (hph : s.blk.phase = .bitWaitGuard)
    (hcnt : s.blk.cnt = counterOf s.params.budget)
    (hbits : ∀ x ∈ bits, 1 ≤ x.1 ∧ x.1 ≤ s.params.budget ∧ 1 ≤ x.2 ∧ x.2 ≤ s.params.budget)
    (hnbit : s.blk.nbit.toNat + bits.length ≤ 39) (hline : s.line = (bitWave bits ++ false :: ls).tail) :
    State.tick^[(bits.map fun x => x.1 + x.2).sum] s = { s with
      line := ls
      blk := { s.blk with
        sr := frameOf s.params bits s.blk.sr, nbit := s.blk.nbit + BitVec.ofNat 6 bits.length
        phase := .bitWaitGuard, cnt := counterOf s.params.budget } } := by
  induction bits generalizing s with
  | nil =>
    rw [← hph, ← hcnt, ← show s.line = ls from hline, List.length_nil, BitVec.add_zero]
    rfl
  | cons x bits ih =>
    obtain ⟨hg1, hg, hk1, hk⟩ := hbits x List.mem_cons_self
    have hrest := fun y hy => hbits y (List.mem_cons_of_mem x hy)
    rw [List.length_cons] at hnbit
    have hnext : (s.blk.nbit + 1#6).toNat = s.blk.nbit.toNat + 1 := by bv_omega
    rw [bitWave_cons_tail bits hg1 hk1, bitWave_append_false fun y hy => (hrest y hy).1] at hline
    have bit := State.iterate_tick_bit hp hph hcnt (by rintro e; simp [e] at hnbit) hg1 hg hk1 hk hline
    have bits' := State.iterate_tick_add bit (ih hp rfl rfl hrest (by dsimp only; omega) rfl)
    have hindex : s.blk.nbit + 1#6 + BitVec.ofNat 6 bits.length = s.blk.nbit + BitVec.ofNat 6 (bits.length + 1) := by
      rw [BitVec.ofNat_add, BitVec.add_assoc, BitVec.add_comm 1#6]
    dsimp only at bits'
    rw [hindex] at bits'
    exact bits'

/-! ### From START to the frame's end (rules R183, R187 and R261) -/

/-- The last sample of the last bit's high pulse: everything else has been decoded. -/
theorem State.iterate_tick_lastHigh {bits : List (Nat × Nat)} {x : Nat × Nat} (hp : s.params.Legal)
    (hn : n + 1 ≤ s.params.budget) (hl1 : 1 ≤ l) (hl : l ≤ s.params.budget) (hh1 : 1 ≤ h)
    (hh : h ≤ s.params.budget)
    (hbits : ∀ y ∈ bits ++ [x], 1 ≤ y.1 ∧ y.1 ≤ s.params.budget ∧ 1 ≤ y.2 ∧ y.2 ≤ s.params.budget)
    (hlen : bits.length = 39) (hline : s.line = wave n l h (bits ++ [x]) ++ false :: ls) :
    State.tick^[s.params.startTicks + (n + 1 + l + h) + (bits.map fun y => y.1 + y.2).sum + (x.1 + (x.2 - 1))]
        (s.onBlock fun b => b.start s.params) = { s with
      line := false :: ls
      blk := { s.blk.start s.params with
        phase := .bitMeasureHigh, cnt := counterOf (s.params.budget - (x.2 - 1))
        sr := frameOf s.params bits 0#40, nbit := 39#6, lineOe := false, lineOut := true } } := by
  obtain ⟨hg1, hg, hk1, hk⟩ := hbits x (by simp)
  have hinit := fun y hy => hbits y (List.mem_append_left [x] hy)
  rw [wave_append hl1 hh1 fun y hy => (hbits y hy).1, bitWave_append, List.append_assoc,
    bitWave_append_false (bits := [x]) (by simpa using hg1), bitWave_cons_tail [] hg1 hk1] at hline
  have start := State.iterate_tick_start hp
  have acks := State.iterate_tick_add start (State.iterate_tick_handshake hp rfl rfl hn hl1 hl hh1 hh hline)
  have guards := State.iterate_tick_add acks (State.iterate_tick_bits hp rfl rfl hinit
    (by show 0 + bits.length ≤ 39; omega) rfl)
  have lastHigh := State.iterate_tick_add guards (State.iterate_tick_bit_high hp rfl rfl hg1 hg hk1 hk rfl)
  rw [hlen] at lastHigh
  exact lastHigh

/-- An acquisition that is still running has been busy all along. -/
theorem State.Acquired.busy_of_le (hs : s.Acquired) (hmn : m ≤ n) (hn : (State.tick^[n] s).blk.phase ≠ .idle) :
    (State.tick^[m] s).blk.busy = true := by
  refine (hs.iterate_tick m).busy_iff.2 fun hidle => hn ?_
  obtain ⟨k, rfl⟩ := Nat.exists_eq_add_of_le hmn
  rw [State.iterate_tick_add_blk hidle, hidle]

/-- The host's START in a cycle of its own. -/
theorem step_acquireWord {inputs : List ClockCycle} (hp : s.params.Legal) (hb : s.blk.busy = false)
    (hinputs : s.inputs = { reset := false, access := some acquireWord, tick := false } :: inputs) :
    step s = .next ({ s with inputs := inputs }.onBlock fun b => b.start s.params) := by
  have hstart := hostAccess_acquireWord (s := { s with inputs := inputs }) hp hb
  rw [hostAccess, ClockCycle.plainAccess, ← hinputs] at hstart
  exact hstart

/-- The checksum test in natural numbers (rules R180 and R182). -/
theorem frameValid_iff (v : BitVec 40) :
    frameValid v = true ↔ ((v.extractLsb' 32 8).toNat + (v.extractLsb' 24 8).toNat + (v.extractLsb' 16 8).toNat +
      (v.extractLsb' 8 8).toNat) % 256 = (v.extractLsb' 0 8).toNat := by
  rw [frameValid, beq_iff_eq, ← BitVec.toNat_inj, checksum_toNat]
  rfl

/-- What the frame's end leaves of a block with no frame exposed: the outcome, and the frame if it is valid
(rule R183). -/
theorem Block.frameEnd_outcome {b : Block} (v : BitVec 40) (hdata : b.data0 = 0#32 ∧ b.data1 = 0#8) :
    if ((v.extractLsb' 32 8).toNat + (v.extractLsb' 24 8).toNat + (v.extractLsb' 16 8).toNat +
        (v.extractLsb' 8 8).toNat) % 256 = (v.extractLsb' 0 8).toNat then
      (b.frameEnd v).result = .ok ∧
      (b.frameEnd v).data0 = v.extractLsb' 8 8 ++ v.extractLsb' 16 8 ++ v.extractLsb' 24 8 ++ v.extractLsb' 32 8 ∧
      (b.frameEnd v).data1 = v.extractLsb' 0 8
    else (b.frameEnd v).result = .cksumMismatch ∧ (b.frameEnd v).data0 = 0#32 ∧ (b.frameEnd v).data1 = 0#8 := by
  split
  next hsum =>
    rw [Block.frameEnd_valid v b ((frameValid_iff v).2 hsum)]
    exact ⟨rfl, rfl, rfl⟩
  next hsum =>
    rw [Block.frameEnd_invalid v b (Bool.eq_false_iff.2 (mt (frameValid_iff v).1 hsum))]
    exact ⟨rfl, hdata⟩

end Acquisition

/-- Settles O44: the waits one after the other up to the last bit's high pulse, and the edge that ends the frame. -/
theorem acquisitionDecodesTheWaveform : Obligations.AcquisitionDecodesTheWaveform := by
  intro s n l h bits ls cs T v hp hidle hn hl1 hl hh1 hh hbits hlen hT hline hinputs hv
  obtain rfl | ⟨init, x, rfl⟩ := List.eq_nil_or_concat' bits
  · cases hlen
  have hinit : init.length = 39 := by simpa using hlen
  obtain ⟨hg1, hg, hk1, hk⟩ := hbits x (by simp)
  obtain ⟨M, hM⟩ : ∃ M, M = s.params.startTicks + (n + 1 + l + h) + (init.map fun y => y.1 + y.2).sum +
    (x.1 + (x.2 - 1)) := ⟨_, rfl⟩
  have hTM : T = M + 1 := by
    simp only [List.map_append, List.sum_append, List.map_cons, List.map_nil, List.sum_cons, List.sum_nil] at hT
    omega
  have hstep := step_acquireWord (inputs := plainTicks T ++ cs) hp hidle hinputs
  have hhigh := State.iterate_tick_lastHigh (s := { s with inputs := plainTicks T ++ cs }) hp hn hl1 hl hh1 hh hbits
    hinit hline
  dsimp only at hhigh
  rw [← hM] at hhigh
  have hframe : shiftIn (frameOf s.params init 0#40)
      (classify s.params (width s.params (counterOf (s.params.budget - (x.2 - 1))))) = v := by
    rw [width_counterOf hp hk1 hk, ← frameOf_append_singleton, frameOf_eq hlen hv]
  have hend := State.iterate_tick_add (n := 1) hhigh (State.tick_frameEnd rfl rfl rfl hframe)
  rw [← hTM] at hend
  constructor
  · intro m hpos hm
    obtain ⟨m, rfl⟩ := Nat.exists_eq_add_of_le' hpos
    have hacq := State.acquired_start (s := { s with inputs := plainTicks T ++ cs }) hp
    exact ⟨_, (run_succ m hstep).trans (run_plainTicks_le hp (by omega) rfl),
      hacq.busy_of_le (show m ≤ M by omega) (by rw [hhigh]; nofun)⟩
  · refine ⟨_, (run_succ T hstep).trans (run_plainTicks hp rfl), rfl, by rw [hend], ?_⟩
    rw [hend]
    exact ⟨Block.frameEnd_busy _ _, Block.frameEnd_done _ _, Block.frameEnd_phase _ _, Block.frameEnd_lineOe _ _,
      Block.frameEnd_lineOut _ _, Block.frameEnd_outcome v ⟨rfl, rfl⟩⟩

end Sys2Proof.Machine
end

section
/-! PROOFS. The start sequence (41_start_sequence.md): what a tick of a delay does, how long the three delays last from
START to the first ACK wait, and that the sensor has no part in them. -/

namespace Sys2Proof.Machine

/-! ### A tick of a start phase (rules R120 to R122) -/

/-- A delay's one test, on the counter before the tick. -/
theorem delayTick_eq_ite (onEnd : Block → Block) (b : Block) :
    delayTick onEnd b = if b.cnt = 1#16 then onEnd b else { b with cnt := b.cnt - 1#16 } := by
  simp only [delayTick, cnt_pred_eq_zero]

/-- The three delay phases run one rule, each with its own end. -/
theorem exec_delay {ph : Phase} (hidle : ph ≠ .idle) (hw : ph.isWait = false) (s : State) :
    exec ph.instr s = .next { s with blk :=
      if s.blk.cnt = 1#16 then ph.onEnd s.params s.blk else { s.blk with cnt := s.blk.cnt - 1#16 } } := by
  rw [← delayTick_eq_ite]
  cases ph with
  | idle => exact absurd rfl hidle
  | startLow1 => rfl
  | startLow2 => rfl
  | startReady => rfl
  | _ => cases hw

/-- Settles O22: each start phase is a delay, whose end is the phase's own. -/
theorem startPhaseTicks : Obligations.StartPhaseTicks := fun s =>
  ⟨exec_delay (ph := .startLow1) nofun rfl s, exec_delay (ph := .startLow2) nofun rfl s,
    exec_delay (ph := .startReady) nofun rfl s⟩

/-! ### The three delays, one after the other (rules R123 and R124) -/

section StartSequence
variable {s : State} {n : Nat} (hp : s.params.Legal) (hph : s.blk.phase = .startLow1)
  (hcnt : s.blk.cnt = counterOf s.params.tLow1)
include hp hph hcnt

theorem State.iterate_tick_low1 :
    State.tick^[s.params.tLow1] s = s.onBlock (Block.enterDelay .startLow2 s.params.tLow2) := by
  have hend := State.iterate_tick_delay hp (by rw [hph]; exact nofun) (by rw [hph]; rfl) (by rw [hph]; exact hcnt)
  rw [hph] at hend
  exact hend

theorem State.iterate_tick_low2 : State.tick^[s.params.tLow1 + s.params.tLow2] s =
    s.onBlock fun b => (b.enterDelay .startReady s.params.tReady).drive true true :=
  (State.iterate_tick_add (State.iterate_tick_low1 hp hph hcnt) (State.iterate_tick_delay hp nofun rfl rfl) :)

theorem State.iterate_tick_ready : State.tick^[s.params.tLow1 + s.params.tLow2 + s.params.tReady] s =
    s.onBlock fun b => (b.enterWait s.params .ackWaitLow).drive false true :=
  (State.iterate_tick_add (State.iterate_tick_low2 hp hph hcnt) (State.iterate_tick_delay hp nofun rfl rfl) :)

/-- Within a start phase only the counter moves. -/
theorem State.iterate_tick_startPhase (hoe : s.blk.lineOe = true)
    (hn : n < s.params.tLow1 + s.params.tLow2 + s.params.tReady) :
    State.tick^[n] s = s.onBlock fun b =>
      if n < s.params.tLow1 then { b with cnt := counterOf (s.params.tLow1 - n) }
      else if n < s.params.tLow1 + s.params.tLow2 then
        b.enterDelay .startLow2 (s.params.tLow1 + s.params.tLow2 - n)
      else
        { b with
          phase := .startReady, lineOut := true
          cnt := counterOf (s.params.tLow1 + s.params.tLow2 + s.params.tReady - n) } := by
  have hfits (ph : Phase) (hidle : ph ≠ .idle) : ph.load s.params ≤ 65535 := (Phase.load_bounds hp hidle).2
  by_cases hlow1 : n < s.params.tLow1
  · simp only [if_pos hlow1]
    exact State.iterate_tick_delay_count (by rw [hph]; exact nofun) (by rw [hph]; rfl) hcnt
      (hfits .startLow1 nofun) hlow1
  simp only [if_neg hlow1]
  by_cases hlow2 : n < s.params.tLow1 + s.params.tLow2
  · obtain ⟨m, rfl⟩ := Nat.exists_eq_add_of_le (Nat.le_of_not_lt hlow1)
    simp only [if_pos hlow2, Nat.add_sub_add_left]
    exact State.iterate_tick_add (State.iterate_tick_low1 hp hph hcnt)
      (State.iterate_tick_delay_count nofun rfl rfl (hfits .startLow2 nofun) (Nat.lt_of_add_lt_add_left hlow2))
  · obtain ⟨m, rfl⟩ := Nat.exists_eq_add_of_le (Nat.le_of_not_lt hlow2)
    rw [State.iterate_tick_add (State.iterate_tick_low2 hp hph hcnt)
      (State.iterate_tick_delay_count nofun rfl rfl (hfits .startReady nofun) (Nat.lt_of_add_lt_add_left hn))]
    simp only [if_neg hlow2, Nat.add_sub_add_left, State.onBlock, Block.enterDelay, Block.drive, hoe]

end StartSequence

theorem State.tick_line_of_wait {s : State} (hw : s.blk.phase.isWait = true) : s.tick.line = s.line.tail := by
  rw [State.tick, if_pos hw]
  exact s.takeSample_line

/-- Settles O23: the schedule's ticks run the three delays one after the other, and the next tick is one of a wait. -/
theorem startSequenceTiming : Obligations.StartSequenceTiming := by
  intro s cs hp hph hcnt hoe _ hinputs
  have hend := run_plainTicks hp hinputs
  rw [State.iterate_tick_ready hp hph hcnt] at hend
  refine ⟨fun n hn => ?within, hend, fun cs' l ls hcs hline => ?sample, rfl, rfl, rfl, rfl⟩
  case within =>
    have hrun := run_plainTicks_le hp hn.le hinputs
    rw [State.iterate_tick_startPhase hp hph hcnt hoe hn] at hrun
    exact ⟨_, hrun, rfl, rfl, rfl, rfl, rfl⟩
  case sample =>
    subst hcs
    rw [run_add 1 hend, run_one]
    exact ⟨_, step_plainTick hp rfl, (State.tick_line_of_wait rfl).trans (congrArg List.tail hline)⟩

/-! ### The sensor where the engine does not sample (rules R123, R210 and R259) -/

/-- The state with another sensor. -/
def State.withSensor (line : List Level) (up : Bool) (draws : Nat) (s : State) : State :=
  { s with line := line, pulledUp := up, draws := draws }

section Sensor
variable {s t : State} (line : List Level) (up : Bool) (draws : Nat)

theorem State.afterEvent_withSensor (s : State) :
    (s.withSensor line up draws).afterEvent = s.afterEvent.withSensor line up draws := by
  cases h : s.inputs with
  | nil =>
    rw [State.afterEvent_nil h]
    exact State.afterEvent_nil h
  | cons c cs =>
    cases ha : c.access with
    | none =>
      rw [State.afterEvent_noAccess h ha]
      exact State.afterEvent_noAccess h ha
    | some w =>
      cases hr : c.reset with
      | false =>
        rw [State.afterEvent_access h hr ha]
        exact State.afterEvent_access h hr ha
      | true =>
        rw [State.afterEvent_reset h hr]
        exact State.afterEvent_reset h hr

/-- Outside the wait phases a tick acts on the block alone, whatever the level of the line. -/
theorem State.tick_of_not_wait (hw : s.blk.phase.isWait = false) (smp : Level) :
    s.tick = s.onBlock (Block.tick s.params smp) := by
  have hblk : s.blk.tick s.params s.sample = s.blk.tick s.params smp := by
    by_cases hidle : s.blk.phase = .idle
    · simp only [Block.tick, hidle]
    · rw [Block.tick_delay hidle hw, Block.tick_delay hidle hw]
  rw [State.tick, if_neg (Bool.eq_false_iff.1 hw), hblk]
  rfl

theorem State.tick_withSensor (hw : s.blk.phase.isWait = false) :
    (s.withSensor line up draws).tick = s.tick.withSensor line up draws := by
  rw [State.tick_of_not_wait hw true, State.tick_of_not_wait (s := s.withSensor line up draws) hw true]
  rfl

theorem exec_decodeHT_withSensor {w : BitVec 38} (h : exec (decodeHT w) s = .next t) :
    exec (decodeHT w) (s.withSensor line up draws) = .next (t.withSensor line up draws) := by
  cases hw : htW w with
  | false =>
    rw [exec_decodeHT_read hw] at h ⊢
    cases h
    rfl
  | true =>
    rw [exec_decodeHT_write hw] at h ⊢
    cases h
    rfl

/-- Outside the wait phases a step goes the same way under every sensor, and leaves the sensor as it was. -/
theorem step_withSensor (hw : s.blk.phase.isWait = false) (h : step s = .next t) :
    step (s.withSensor line up draws) = .next (t.withSensor line up draws) := by
  have hp := legal_of_step h
  have hp' : (s.withSensor line up draws).params.Legal := hp
  cases he : s.nextEvent with
  | reset =>
    rw [step_reset hp he] at h
    cases h
    exact (step_reset hp' he).trans (congrArg _ (State.afterEvent_withSensor line up draws s.applyReset))
  | quiet =>
    rw [step_quiet hp he] at h
    cases h
    rw [step_quiet hp' he, State.afterEvent_withSensor]
  | tick =>
    rw [step_tick hp he] at h
    cases h
    rw [step_tick hp' he, State.afterEvent_withSensor, State.tick_withSensor _ _ _ (by rwa [State.afterEvent_blk])]
  | access w =>
    rw [step_access hp he] at h
    rw [step_access hp' he, State.afterEvent_withSensor, exec_decodeHT_withSensor _ _ _ h]

end Sensor

/-- Settles O42: the driven phases and IDLE are those that do not wait, where another sensor changes nothing else. -/
theorem drivenPhasesIgnoreTheSensor : Obligations.DrivenPhasesIgnoreTheSensor := by
  intro s t line up draws hcode h
  rw [← not_le, ← Phase.isWait_iff_code, Bool.not_eq_true] at hcode
  exact step_withSensor line up draws hcode h

end Sys2Proof.Machine
end

section
/-! PROOFS. The ACK handshake (42_ack_handshake.md): what the timeout of an ACK stage does. -/

namespace Sys2Proof.Machine

section AckTimeout
variable {s : State} {ph : Phase} {stage : AckStage}

/-- The last sample a wait allows, still at the level to leave, runs the phase's timeout (rule R101). -/
theorem exec_wait_timeout (hL : ph.levelToLeave = some s.sample) (hc : s.blk.cnt = 1#16) :
    exec ph.instr s = .next { s.takeSample with blk := ph.onTimeout s.params s.blk } := by
  rw [exec_wait hL, State.onSample_eq, waitTick_timeout hc]

theorem Phase.onTimeout_of_ackStage {p : Params} {b : Block} (h : ph.ackStage = some stage) :
    ph.onTimeout p b = b.ackFail p stage := by
  rw [Phase.onTimeout, h]

theorem exec_ackWait_timeout (hstage : ph.ackStage = some stage) (hL : ph.levelToLeave = some s.sample)
    (hc : s.blk.cnt = 1#16) :
    exec ph.instr s = .next { s.takeSample with blk := s.blk.ackFail s.params stage } := by
  rw [exec_wait_timeout hL hc, Phase.onTimeout_of_ackStage hstage]

end AckTimeout

/-- Settles O27: each ACK wait times out with its own stage, whose failure `Block.ackFail_eq` writes out. -/
theorem ackTimeoutsRecordTheStage : Obligations.AckTimeoutsRecordTheStage := by
  intro s hc failed
  have hfailed (stage : AckStage) : failed stage = s.blk.ackFail s.params stage := by
    simp only [failed, Block.ackFail_eq, Bool.if_true_left, Bool.decide_eq_true]
  simp only [hfailed]
  refine ⟨fun hs => ⟨?_, ?_⟩, fun hs => ?_⟩
  · exact exec_ackWait_timeout (ph := .ackWaitLow) rfl (hs ▸ rfl) hc
  · exact exec_ackWait_timeout (ph := .ackWaitRelease) rfl (hs ▸ rfl) hc
  · exact exec_ackWait_timeout (ph := .ackWaitHigh) rfl (hs ▸ rfl) hc

end Sys2Proof.Machine
end

section
/-! PROOFS. The bit deserializer (43_bit_deserializer.md): what the timeout of a bit's wait records, and the threshold
that classifies a width. -/

namespace Sys2Proof.Machine

/-! ### The timeout of a bit's wait (rules R164 and R165) -/

/-- The 3-bit byte index is exact at every bit index of 6 bits (rule R164). -/
theorem byteIndex_toNat (n : BitVec 6) : (byteIndex n).toNat = n.toNat / 8 := by
  have := n.isLt
  rw [byteIndex, BitVec.toNat_ofNat, Nat.mod_eq_of_lt (by omega)]

theorem bitIndex_toNat (n : BitVec 6) : (bitIndex n).toNat = n.toNat % 8 := by
  rw [bitIndex, BitVec.toNat_ofNat, Nat.mod_eq_of_lt (Nat.mod_lt _ (by decide))]

section BitTimeout
variable {s : State} {ph : Phase} {wait : Bool}

theorem Phase.onTimeout_of_bitWait {p : Params} {b : Block} (h : ph.bitWait = some wait) :
    ph.onTimeout p b = b.byteFail wait := by
  cases ph <;> cases h <;> rfl

theorem exec_bitWait_timeout (hwait : ph.bitWait = some wait) (hL : ph.levelToLeave = some s.sample)
    (hc : s.blk.cnt = 1#16) : exec ph.instr s = .next { s.takeSample with blk := s.blk.byteFail wait } := by
  rw [exec_wait_timeout hL hc, Phase.onTimeout_of_bitWait hwait]

end BitTimeout

/-- Settles O28: each bit wait times out into `Block.byteFail`, whose indices are exact and which `Block.byteFail_eq`
writes out. -/
theorem bitTimeoutsRecordThePosition : Obligations.BitTimeoutsRecordThePosition := by
  intro s hc
  refine ⟨fun hs => ⟨s.blk.byteFail false, ?guard, byteIndex_toNat _, bitIndex_toNat _, Block.byteFail_eq ..⟩,
    fun hs => ⟨s.blk.byteFail true, ?measure, byteIndex_toNat _, bitIndex_toNat _, Block.byteFail_eq ..⟩⟩
  case guard => exact exec_bitWait_timeout (ph := .bitWaitGuard) rfl (hs ▸ rfl) hc
  case measure => exact exec_bitWait_timeout (ph := .bitMeasureHigh) rfl (hs ▸ rfl) hc

/-! ### The threshold (rule R162) -/

theorem classify_eq_true_iff (p : Params) (k : Nat) : classify p k = true ↔ p.threshNs < k * p.tickNs :=
  decide_eq_true_iff

theorem classify_eq_false_iff (p : Params) (k : Nat) : classify p k = false ↔ k * p.tickNs ≤ p.threshNs :=
  decide_eq_false_iff_not.trans not_lt

/-- Settles O30: a width is compared with the threshold strictly, so the tie is a 0; the defaults compare `1000 * k`
with 45000. -/
theorem classifyIsStrict : Obligations.ClassifyIsStrict := by
  refine ⟨classify_eq_true_iff, fun p k htie => (classify_eq_false_iff p k).2 htie.le, fun k => ?default⟩
  have htick : Params.default.tickNs = 1000 := rfl
  have hthresh : Params.default.threshNs = 45000 := rfl
  rw [classify_eq_false_iff, classify_eq_true_iff, htick, hthresh]
  constructor <;> omega

end Sys2Proof.Machine
end

section
/-! PROOFS. The end of the frame (44_frame_checksum.md): the checksum, the edge of the last bit, the order of the phases,
and the fewest ticks from START to a frame's end. -/

namespace Sys2Proof.Machine

/-- Settles O32: the sum of bytes is exact mod 256, and four frames' sums are computed. -/
theorem checksumIsSumMod256 : Obligations.ChecksumIsSumMod256 :=
  ⟨checksum_toNat, by decide, by decide, by decide, by decide⟩

/-! ### The edge of bit 39 (rules R161 and R183) -/

/-- The edge that ends bit 39 ends the frame, this bit included. -/
theorem exec_bitMeasureHigh_last {s : State} {v : BitVec 40} (hs : s.sample = false) (hn : s.blk.nbit = 39#6)
    (hv : shiftIn s.blk.sr (classify s.params (width s.params s.blk.cnt)) = v) :
    exec .bitMeasureHigh s = .next { s.takeSample with blk := { s.blk with sr := v }.frameEnd v } := by
  have hedge := exec_wait_edge (s := s) (ph := .bitMeasureHigh) (hs ▸ rfl)
  rw [Phase.onEdge_bitMeasureHigh, Block.bitEdge_last _ _ _ hn, hv] at hedge
  exact hedge

/-- Settles O34: the edge ends the frame, and the frame's end follows the checksum test. A safe busy block has exposed
nothing yet. -/
theorem lastBitEndsTheFrame : Obligations.LastBitEndsTheFrame := by
  intro s v b hs hn hv h0 h1 h2 h3 h4
  have hedge := exec_bitMeasureHigh_last hs hn ((shiftIn_classify ..).trans hv.symm)
  rw [hedge, h0, h1, h2, h3, h4]
  refine ⟨fun hsum => ?valid, fun hsum => ⟨?invalid, fun hsafe hbusy => ?notExposed⟩⟩
  case valid =>
    rw [Block.frameEnd_valid _ _ ((frameValid_iff v).2 hsum)]
    rfl
  case invalid => rw [Block.frameEnd_invalid _ _ (Bool.eq_false_iff.2 (mt (frameValid_iff v).1 hsum))]
  case notExposed =>
    obtain ⟨-, hblk⟩ := (State.safe_iff s).1 hsafe
    obtain ⟨-, ⟨⟨hbusyIff, -⟩, -⟩, -⟩ := hsafe
    exact (hblk.running (hbusyIff hbusy)).frame

/-! ### The order of the phases (rule R185) -/

/-- The bit index of a running block counts up exactly. -/
theorem Block.Running.nbit_succ {p : Params} {b : Block} (h : b.Running p) (hn : b.nbit ≠ 39#6) :
    b.nbit.toNat < 39 ∧ (b.nbit + 1#6).toNat = b.nbit.toNat + 1 := by
  have hle := h.nbit
  have hne : b.nbit.toNat ≠ 39 := fun e => hn (BitVec.eq_of_toNat_eq e)
  constructor <;> bv_omega

/-- The ticks that change the phase, in the order of the rule; the last is an acquisition's end. -/
def Block.InOrder (b b' : Block) : Prop :=
  (b.phase = .startLow1 ∧ b'.phase = .startLow2) ∨
  (b.phase = .startLow2 ∧ b'.phase = .startReady) ∨
  (b.phase = .startReady ∧ b'.phase = .ackWaitLow) ∨
  (b.phase = .ackWaitLow ∧ b'.phase = .ackWaitHigh) ∨
  (b.phase = .ackWaitHigh ∧ b'.phase = .ackWaitRelease) ∨
  (b.phase = .ackWaitRelease ∧ b'.phase = .bitWaitGuard) ∨
  (b.phase = .bitWaitGuard ∧ b'.phase = .bitMeasureHigh) ∨
  (b.phase = .bitMeasureHigh ∧ b'.phase = .bitWaitGuard ∧
    b.nbit.toNat < 39 ∧ b'.nbit.toNat = b.nbit.toNat + 1) ∨
  (b.phase.isWait = true ∧ b'.phase = .idle ∧ b'.done = true ∧ b'.result ≠ .none)

section Order
variable {p : Params} {smp : Level} {b b' : Block}

/-- The end of a wait that does no more than enter the next. -/
theorem Block.inOrder_of_nextWait (h : b.phase.nextWait = some b'.phase) : b.InOrder b' := by
  cases hph : b.phase <;> simp_all [Phase.nextWait, Block.InOrder]

theorem Block.inOrder_of_completion (hw : b.phase.isWait = true) (hph : b'.phase = .idle) (hdone : b'.done = true)
    (hres : b'.result ≠ .none) : b.InOrder b' := by
  simp [Block.InOrder, hw, hph, hdone, hres]

/-- A tick counts in its phase, or goes on to the phase that follows, or completes. -/
theorem Block.TickTo.keeps_phase_or_inOrder (ht : b.TickTo p smp b') (h : b.Safe p) :
    b'.phase = b.phase ∨ b.InOrder b' := by
  cases ht with
  | idle => exact .inl rfl
  | count => exact .inl rfl
  | endLow1 hph => exact .inr (by simp [Block.InOrder, hph])
  | endLow2 hph => exact .inr (by simp [Block.InOrder, hph])
  | endReady hph => exact .inr (by simp [Block.InOrder, hph])
  | edge hnext => exact .inr (Block.inOrder_of_nextWait hnext)
  | bitEdge hph _ hn =>
    have hnbit := (h.running (by simp [hph])).nbit_succ hn
    exact .inr (by simp [Block.InOrder, hph, hnbit])
  | frameEnd hph =>
    exact .inr (Block.inOrder_of_completion (by rw [hph]; rfl) (Block.frameEnd_phase _ _) (Block.frameEnd_done _ _)
      (Block.frameEnd_result_ne_none _ _))
  | ackTimeout hstage =>
    obtain ⟨hw, -⟩ := Phase.ackStage_isWait hstage
    exact .inr (Block.inOrder_of_completion hw rfl rfl (by rw [Block.ackFail_eq]; nofun))
  | bitTimeout hwait => exact .inr (Block.inOrder_of_completion (Phase.bitWait_isWait hwait) rfl rfl nofun)

end Order

/-- Settles O40: a step keeps the block, resets it, starts an acquisition from IDLE, or ticks. -/
theorem phasesFollowTheirOrder : Obligations.PhasesFollowTheirOrder := by
  intro s t hsafe h
  obtain ⟨-, hblk⟩ := (State.safe_iff s).1 hsafe
  rcases step_blk_inv h with e | ⟨he, e⟩ | ⟨w, he, -, -, -, hidle, e⟩ | ⟨he, htick⟩
  · exact .inl (congrArg Block.phase e)
  · exact .inr (.inl ⟨he, congrArg Block.phase e⟩)
  · obtain ⟨-, ⟨⟨-, hbusy⟩, -⟩, -⟩ := hsafe
    have hph : s.blk.phase = .idle := by
      by_contra hne
      simp [hbusy hne] at hidle
    exact .inr (.inr (.inl ⟨hph, congrArg Block.phase e, w, he⟩))
  · exact (htick.keeps_phase_or_inOrder hblk).imp_right fun horder => .inr (.inr ⟨he, horder⟩)

/-! ### The fewest ticks from START to a frame (rule R187) -/

/-- The fewest ticks from START to a phase's first tick, on bit 0. -/
def Phase.ticksBefore (p : Params) : Phase → Nat
  | .idle => 0
  | .startLow1 => 0
  | .startLow2 => p.tLow1
  | .startReady => p.tLow1 + p.tLow2
  | .ackWaitLow => p.startTicks
  | .ackWaitHigh => p.startTicks + 1
  | .ackWaitRelease => p.startTicks + 2
  | .bitWaitGuard => p.startTicks + 3
  | .bitMeasureHigh => p.startTicks + 4

/-- The fewest ticks that have passed since START: those before the phase, two for each bit decoded, and those that the
phase's counter has counted. -/
def Block.leastTicks (p : Params) (b : Block) : Nat :=
  b.phase.ticksBefore p + 2 * b.nbit.toNat + (b.phase.load p - b.cnt.toNat)

/-- The outcomes that take all 83 waits. -/
def Block.FrameEnded (b : Block) : Prop := b.result = .ok ∨ b.result = .cksumMismatch

section LeastTicks
variable {p : Params} {smp : Level} {b b' : Block}

/-- Entering a phase, whose counter has counted nothing yet. -/
theorem Block.leastTicks_enter (hp : p.Legal) (hph : b.phase ≠ .idle) (hcnt : b.cnt = counterOf (b.phase.load p)) :
    b.leastTicks p = b.phase.ticksBefore p + 2 * b.nbit.toNat := by
  obtain ⟨-, hload⟩ := Phase.load_bounds hp hph
  rw [Block.leastTicks, hcnt, counterOf_toNat hload, Nat.sub_self, Nat.add_zero]

theorem Block.leastTicks_enterWait {ph : Phase} (hp : p.Legal) (hph : ph.isWait = true) :
    (b.enterWait p ph).leastTicks p = ph.ticksBefore p + 2 * b.nbit.toNat :=
  Block.leastTicks_enter hp (Phase.ne_idle_of_isWait hph) (congrArg counterOf (Phase.load_of_isWait hph).symm)

theorem Block.leastTicks_of_idle (h : b.phase = .idle) : b.leastTicks p = 2 * b.nbit.toNat := by
  simp [Block.leastTicks, h, Phase.ticksBefore, Phase.load]

theorem Block.leastTicks_start (hp : p.Legal) (b : Block) : (b.start p).leastTicks p = 0 :=
  Block.leastTicks_enter hp nofun rfl

theorem Block.leastTicks_reset (p : Params) : Block.reset.leastTicks p = 0 :=
  Block.leastTicks_of_idle rfl

/-- On its last tick a delay has counted all its other ticks. -/
theorem Block.leastTicks_last (hp : p.Legal) (hph : b.phase ≠ .idle) (hcnt : b.cnt = 1#16) :
    b.leastTicks p + 1 = b.phase.ticksBefore p + b.phase.load p + 2 * b.nbit.toNat := by
  obtain ⟨hload, -⟩ := Phase.load_bounds hp hph
  rw [Block.leastTicks, hcnt, BitVec.toNat_ofNat]
  omega

theorem Phase.ticksBefore_nextWait {ph ph' : Phase} (h : ph.nextWait = some ph') :
    ph'.ticksBefore p = ph.ticksBefore p + 1 := by
  cases ph <;> cases h <;> rfl

theorem Block.ticksBefore_le_leastTicks : b.phase.ticksBefore p + 2 * b.nbit.toNat ≤ b.leastTicks p :=
  Nat.le_add_right _ _

/-- A completion leaves the bit index, and IDLE counts nothing else. -/
theorem Block.leastTicks_le_of_idle (hph : b'.phase = .idle) (hn : b'.nbit = b.nbit) :
    b'.leastTicks p ≤ b.leastTicks p + 1 := by
  rw [Block.leastTicks_of_idle hph, hn, Block.leastTicks]
  omega

/-- A tick is one tick. -/
theorem Block.TickTo.leastTicks_le (ht : b.TickTo p smp b') (hp : p.Legal) :
    b'.leastTicks p ≤ b.leastTicks p + 1 := by
  cases ht with
  | idle => exact Nat.le_succ _
  | count =>
    have hcnt : b.cnt.toNat ≤ (b.cnt - 1#16).toNat + 1 := by bv_omega
    simp only [Block.leastTicks]
    omega
  | endLow1 hph hc =>
    rw [Block.leastTicks_enter hp (by simp) rfl, Block.leastTicks_last hp (by simp [hph]) hc, hph]
    exact Nat.add_le_add_right (Nat.le_add_left _ _) _
  | endLow2 hph hc =>
    rw [Block.leastTicks_enter hp (by simp) rfl, Block.leastTicks_last hp (by simp [hph]) hc, hph]
    exact le_rfl
  | endReady hph hc =>
    rw [Block.leastTicks_enterWait hp rfl, Block.leastTicks_last hp (by simp [hph]) hc, hph]
    exact le_rfl
  | edge hnext =>
    obtain ⟨-, hw⟩ := Phase.nextWait_isWait hnext
    have hle := Block.ticksBefore_le_leastTicks (p := p) (b := b)
    rw [Block.leastTicks_enterWait hp hw, Phase.ticksBefore_nextWait hnext]
    omega
  | bitEdge hph =>
    have hle := Block.ticksBefore_le_leastTicks (p := p) (b := b)
    have hn : (b.nbit + 1#6).toNat ≤ b.nbit.toNat + 1 := by bv_omega
    rw [hph] at hle
    rw [Block.leastTicks_enterWait hp rfl]
    simp only [Phase.ticksBefore] at hle ⊢
    omega
  | frameEnd => exact Block.leastTicks_le_of_idle (Block.frameEnd_phase _ _) (Block.frameEnd_nbit _ _)
  | ackTimeout => exact Block.leastTicks_le_of_idle rfl (by rw [Block.ackFail_eq])
  | bitTimeout => exact Block.leastTicks_le_of_idle rfl rfl

/-- The tick that ends a frame is the last edge of bit 39, after 82 waits. -/
theorem Block.TickTo.frameEnded (ht : b.TickTo p smp b') (hend : b'.FrameEnded) :
    b.FrameEnded ∨ p.startTicks + 83 ≤ b.leastTicks p + 1 := by
  cases ht with
  | frameEnd hph hs hn =>
    have hle := Block.ticksBefore_le_leastTicks (p := p) (b := b)
    rw [hph, hn] at hle
    exact .inr (Nat.succ_le_succ hle)
  | ackTimeout =>
    rw [Block.ackFail_eq] at hend
    exact absurd hend (by simp [Block.FrameEnded])
  | bitTimeout =>
    rw [Block.byteFail_eq] at hend
    exact absurd hend (by simp [Block.FrameEnded])
  | _ => exact .inl hend

end LeastTicks

/-! ### The ticks a schedule still holds -/

section Schedule
variable {s t : State} {N : Nat}

theorem State.applyReset_afterEvent_inputs (s : State) : s.applyReset.afterEvent.inputs = s.afterEvent.inputs := by
  unfold State.afterEvent
  rw [State.applyReset_inputs]
  repeat' split
  all_goals rfl

/-- A step takes one event off the schedule. -/
theorem step_inputs (h : step s = .next t) : t.inputs = s.afterEvent.inputs := by
  have hp := legal_of_step h
  cases he : s.nextEvent with
  | reset => rw [step_reset hp he] at h; cases h; exact State.applyReset_afterEvent_inputs s
  | tick => rw [step_tick hp he] at h; cases h; exact State.tick_inputs _
  | quiet => rw [step_quiet hp he] at h; cases h; rfl
  | access w =>
    rw [step_access hp he] at h
    obtain ⟨-, hinputs⟩ := exec_decodeHT_keeps_params_inputs h
    exact hinputs

/-- That event is one of the schedule's steps, and one of its ticks if it is a tick. -/
theorem State.afterEvent_counts (h : s.inputs ≠ []) :
    stepsIn s.inputs = stepsIn s.afterEvent.inputs + 1 ∧
    ticksIn s.inputs = ticksIn s.afterEvent.inputs + if s.nextEvent = .tick then 1 else 0 := by
  obtain ⟨⟨r, a, k⟩, cs, hcs⟩ := List.exists_cons_of_ne_nil h
  cases r with
  | true =>
    rw [State.afterEvent_reset hcs rfl, State.nextEvent_reset hcs rfl, hcs]
    simp [stepsIn, ticksIn, Nat.add_comm]
  | false =>
    cases a with
    | some w =>
      rw [State.afterEvent_access hcs rfl rfl, State.nextEvent_access hcs rfl rfl, hcs]
      cases k <;> simp [stepsIn, ticksIn, ClockCycle.plainTick] <;> omega
    | none =>
      rw [State.afterEvent_noAccess hcs rfl, hcs]
      cases k with
      | true =>
        rw [State.nextEvent_tick hcs rfl rfl rfl]
        simp [stepsIn, ticksIn, Nat.add_comm]
      | false =>
        rw [State.nextEvent_quiet hcs rfl rfl rfl]
        simp [stepsIn, ticksIn, Nat.add_comm]

/-- Of the `N` ticks of a schedule, those that are gone are at least the fewest that the block has seen; and a frame
that has ended has taken all its waits. -/
structure State.Paced (N : Nat) (s : State) : Prop where
  elapsed : ticksIn s.inputs + s.blk.leastTicks s.params ≤ N
  frame : s.blk.FrameEnded → ticksIn s.inputs + (s.params.startTicks + 83) ≤ N

/-- A step that a schedule names keeps the pace: only a tick adds to what the block has seen, and it leaves the
schedule. -/
theorem State.Paced.of_step (hs : s.Paced N) (hne : s.inputs ≠ []) (h : step s = .next t) :
    t.Paced N ∧ stepsIn s.inputs = stepsIn t.inputs + 1 := by
  have hp := legal_of_step h
  obtain ⟨hparams, -⟩ := step_blk_cases h
  obtain ⟨hsteps, hticks⟩ := State.afterEvent_counts hne
  rw [← step_inputs h] at hsteps hticks
  obtain ⟨helapsed, hframe⟩ := hs
  refine ⟨?_, hsteps⟩
  rcases step_blk_inv h with e | ⟨-, e⟩ | ⟨-, -, -, -, -, -, e⟩ | ⟨he, htick⟩
  · refine ⟨by rw [e, hparams]; omega, fun hend => ?_⟩
    have hgone := hframe (e ▸ hend)
    rw [hparams]
    omega
  · exact ⟨by rw [e, Block.leastTicks_reset]; omega, by rw [e]; nofun⟩
  · exact ⟨by rw [e, hparams, Block.leastTicks_start hp]; omega, by rw [e]; nofun⟩
  · rw [if_pos he] at hticks
    have hle := htick.leastTicks_le hp
    refine ⟨by rw [hparams]; omega, fun hend => ?_⟩
    rw [hparams]
    rcases htick.frameEnded hend with hend | hlast
    · have hgone := hframe hend
      omega
    · omega

theorem run_keeps_paced {n : Nat} (hs : s.Paced N) (hn : n ≤ stepsIn s.inputs) (h : run n s = .next t) :
    t.Paced N := by
  induction n generalizing s with
  | zero => cases h; exact hs
  | succ n ih =>
    obtain ⟨u, hu, hrun⟩ := run_succ_inv h
    have hne : s.inputs ≠ [] := fun hnil => by simp [hnil, stepsIn] at hn
    obtain ⟨hpaced, hsteps⟩ := hs.of_step hne hu
    exact ih hpaced (by omega) hrun

end Schedule

/-- Settles O47: at START no tick has passed, and every step of the schedule keeps the pace. -/
theorem aFrameTakesAtLeast : Obligations.AFrameTakesAtLeast := by
  intro s t n hp hph _ hcnt hnbit hres hn h hend
  have hstart : s.blk.leastTicks s.params = 0 := by
    rw [Block.leastTicks_enter hp (by simp [hph]) (by rw [hcnt, hph]; rfl), hph, hnbit]
    rfl
  have hpaced : s.Paced (ticksIn s.inputs) :=
    ⟨by rw [hstart, Nat.add_zero], fun hended => by simp [Block.FrameEnded, hres] at hended⟩
  have := (run_keeps_paced hpaced hn h).frame hend
  rwa [run_keeps_params h] at this

end Sys2Proof.Machine
end

section
/-! PROOFS. The host interface (45_host_interface.md): what ACQUIRE, the ignored writes and the reads do, what a busy
block makes of the host, the ticks of IDLE, and that no acquisition depends on what came before it. -/

namespace Sys2Proof.Machine

/-! ### Acquisitions are independent (rule R209) -/

/-- The state with another record of the words read. -/
def State.withReads (rs : List Word) (s : State) : State := { s with reads := rs }

section Reads
variable {s : State}

theorem State.afterEvent_withReads (rs : List Word) (s : State) :
    (s.withReads rs).afterEvent = s.afterEvent.withReads rs := by
  unfold State.afterEvent State.withReads
  dsimp only
  repeat' split
  all_goals rfl

theorem State.tick_withReads (rs : List Word) (s : State) : (s.withReads rs).tick = s.tick.withReads rs := by
  rw [State.withReads, State.withReads, State.tick_withInputsReads s s.inputs rs, ← State.tick_inputs s]

/-- A host access adds the same words to every record, and does the same otherwise. -/
theorem exec_decodeHT_withReads (w : BitVec 38) (s : State) :
    ∃ (t : State) (qs : List Word), ∀ rs, exec (decodeHT w) (s.withReads rs) = .next (t.withReads (qs ++ rs)) := by
  cases hw : htW w with
  | false => exact ⟨s, [regRead (htA w) s.blk], fun rs => exec_decodeHT_read hw _⟩
  | true => exact ⟨s.onBlock (regWrite s.params (htA w) (htD w)), [], fun rs => exec_decodeHT_write hw _⟩

/-- A step adds the same words to every record, and does the same otherwise. -/
theorem step_withReads (hp : s.params.Legal) :
    ∃ (t : State) (qs : List Word), ∀ rs, step (s.withReads rs) = .next (t.withReads (qs ++ rs)) := by
  cases he : s.nextEvent with
  | reset =>
    exact ⟨s.applyReset.afterEvent, [], fun rs => (step_reset (s := s.withReads rs) hp he).trans
      (congrArg _ (State.afterEvent_withReads rs s.applyReset))⟩
  | quiet =>
    exact ⟨s.afterEvent, [], fun rs => (step_quiet (s := s.withReads rs) hp he).trans
      (congrArg _ (State.afterEvent_withReads rs s))⟩
  | tick =>
    refine ⟨s.afterEvent.tick, [], fun rs => ?_⟩
    rw [step_tick (s := s.withReads rs) hp he, State.afterEvent_withReads, State.tick_withReads, List.nil_append]
  | access w =>
    obtain ⟨t, qs, h⟩ := exec_decodeHT_withReads w s.afterEvent
    refine ⟨t, qs, fun rs => ?_⟩
    rw [step_access (s := s.withReads rs) hp he, State.afterEvent_withReads, h]

/-- What a run does, and the words it reads, do not depend on what was read before it. -/
theorem run_withReads (hp : s.params.Legal) (n : Nat) :
    ∃ (t : State) (qs : List Word), ∀ rs, run n (s.withReads rs) = .next (t.withReads (qs ++ rs)) := by
  induction n generalizing s with
  | zero => exact ⟨s, [], fun rs => rfl⟩
  | succ n ih =>
    obtain ⟨u, qs, hu⟩ := step_withReads hp
    obtain ⟨hparams, -⟩ := step_blk_cases (hu [])
    have hu_params : u.params = s.params := hparams
    obtain ⟨t, qs', ht⟩ := ih (hu_params ▸ hp)
    exact ⟨t, qs' ++ qs, fun rs => by rw [run_succ n (hu rs), ht, List.append_assoc]⟩

/-- An accepted START writes every field of the block, so it could have started from any block `b`. -/
theorem step_start {w : BitVec 38} {tk : Bool} {cs : List ClockCycle} (hp : s.params.Legal)
    (hb : s.blk.busy = false) (hw : htW w = true) (ha : regOf (htA w) = .ctrl) (hd : startBit (htD w) = true)
    (hinputs : s.inputs = { reset := false, access := some w, tick := tk } :: cs) (b : Block) :
    step s = .next { s with
      blk := b.start s.params, inputs := if tk then ClockCycle.plainTick :: cs else cs } := by
  rw [step_access hp (State.nextEvent_access hinputs rfl rfl), exec_decodeHT_write hw, State.onBlock,
    State.afterEvent_blk, State.afterEvent_params, regWrite_start ha hd hb, State.afterEvent_access hinputs rfl rfl,
    Block.start_eq_start s.params s.blk b]

end Reads

/-- Settles O43: after the STARTs the two states differ in the record of the words read alone, which a run only adds
to. -/
theorem acquisitionsAreIndependent : Obligations.AcquisitionsAreIndependent := by
  intro s₁ s₂ w tk cs hp hparams hb₁ hb₂ hw hsel h0 hin₁ hin₂ hline hup hdraws n
  obtain ⟨ha, hd⟩ := (startWord_iff w).1 ⟨hsel, h0⟩
  have hstep₁ := step_start hp hb₁ hw ha hd hin₁ s₁.blk
  have hstep₂ := step_start (hparams ▸ hp) hb₂ hw ha hd (hin₂.trans hin₁) s₁.blk
  rw [hparams, hline, hup, hdraws] at hstep₂
  obtain ⟨t, qs, ht⟩ := run_withReads (s := { s₁ with
    blk := s₁.blk.start s₁.params, inputs := if tk then ClockCycle.plainTick :: cs else cs }) hp n
  exact ⟨t.withReads (qs ++ s₁.reads), t.withReads (qs ++ s₂.reads), qs,
    (run_succ n hstep₁).trans (ht s₁.reads), (run_succ n hstep₂).trans (ht s₂.reads), rfl, rfl, rfl⟩

/-! ### The host and a busy block (rules R65 and R201) -/

/-- Settles O20: a read only adds to the words read, and no write is accepted. -/
theorem busyBlockIgnoresTheHost : Obligations.BusyBlockIgnoresTheHost := by
  intro w s t hbusy h
  cases hw : htW w with
  | false =>
    rw [exec_decodeHT_read hw] at h
    cases h
    exact ⟨rfl, rfl, rfl, rfl, rfl, rfl⟩
  | true =>
    have hignored : regWrite s.params (htA w) (htD w) s.blk = s.blk :=
      regWrite_ignored fun ⟨_, _, hidle⟩ => by simp [hbusy] at hidle
    rw [exec_decodeHT_write hw, State.onBlock_eq_self hignored] at h
    cases h
    exact ⟨rfl, rfl, rfl, rfl, rfl, rfl⟩

/-! ### The ticks of IDLE (rule R210) -/

theorem State.tick_of_idle {s : State} (h : s.blk.phase = .idle) : s.tick = s := by
  have hblk : s.blk.tick s.params s.sample = s.blk := State.tick_blk_of_idle h
  rw [State.tick_of_not_wait (by rw [h]; rfl) s.sample, State.onBlock_eq_self hblk]

/-- Settles O21: an idle state is a fixed point of the tick. -/
theorem idleTicksChangeNothing : Obligations.IdleTicksChangeNothing := by
  refine ⟨fun s => rfl, fun n s cs hp hidle hinputs => ?_⟩
  rw [run_plainTicks hp hinputs, Function.iterate_fixed (State.tick_of_idle hidle)]

/-! ### The transactions (rules R200 to R207) -/

theorem statusWord_start (p : Params) (b : Block) : statusWord (b.start p) = 0x11000001#32 := by
  simp only [statusWord, Block.start]
  decide

/-- Settles O13: ACQUIRE is `Block.acquire`, which an idle block answers with `Block.start`. -/
theorem acquireStartsAnIdleBlock : Obligations.AcquireStartsAnIdleBlock := by
  intro a d s
  have hexec : exec (.acquire a d) s = .next (s.onBlock (Block.acquire s.params)) := rfl
  refine ⟨fun hbusy => ?_, fun hidle => ⟨s.blk.start s.params, ?_, rfl, statusWord_start _ _⟩⟩
  · rw [hexec, State.onBlock_eq_self (Block.acquire_busy _ _ hbusy)]
  · rw [hexec, State.onBlock, Block.acquire_idle _ _ hidle]

/-- Settles O14: the five rows of the ignored writes answer the state they are given. -/
theorem ignoredWritesChangeNothing : Obligations.IgnoredWritesChangeNothing :=
  fun _ _ _ => ⟨rfl, rfl, rfl, rfl, rfl⟩

/-- No frame is exposed during an acquisition, nor after one that did not end in OK (rules R36, R37 and R205). -/
theorem Block.Safe.frame_eq_zero {p : Params} {b : Block} (h : b.Safe p) (hb : b.busy = true ∨ b.result ≠ .ok) :
    b.data0 = 0#32 ∧ b.data1 = 0#8 := by
  have hrunning := h.running
  obtain ⟨⟨hbusy, -, -, hframe, -⟩, -⟩ := h
  rcases hb with hb | hb
  · exact (hrunning (hbusy.1 hb)).frame
  · exact hframe hb

/-- Settles O16: each read row records its register's word, and a safe block that exposes no frame has 0 in both data
registers. -/
theorem readsReturnTheirRegister : Obligations.ReadsReturnTheirRegister := by
  intro a d s
  have hdata0 : exec (.rdData0 a d) s = .next { s with reads := s.blk.data0 :: s.reads } := rfl
  have hdata1 : exec (.rdData1 a d) s = .next { s with reads := s.blk.data1.setWidth 32 :: s.reads } := rfl
  refine ⟨rfl, rfl, hdata0, hdata1, rfl, fun hs hb => ?_⟩
  obtain ⟨-, hsafe⟩ := (State.safe_iff s).1 hs
  obtain ⟨h0, h1⟩ := hsafe.frame_eq_zero hb
  rw [hdata0, hdata1, h0, h1]
  exact ⟨rfl, rfl⟩

end Sys2Proof.Machine
end

section
/-! PROOFS. Reset and hazards (70_reset_and_hazards.md): what reset sets, how long any acquisition can take, and how
long the nominal one takes. -/

namespace Sys2Proof.Machine

/-! ### Reset (rules R250 and R41) -/

/-- Settles O9: a reset cycle's one event is the reset, which writes the whole block. -/
theorem resetSetsEveryField : Obligations.ResetSetsEveryField := by
  refine ⟨fun s c cs hp hinputs hreset => ?_, rfl, by decide, rfl, rfl, rfl⟩
  have hinputs' : s.applyReset.inputs = c :: cs := hinputs
  rw [step_reset hp (State.nextEvent_reset hinputs hreset), State.afterEvent_reset hinputs' hreset]
  rfl

/-! ### The longest acquisition (rules R187 and R262) -/

section Ending
variable {s t : State} {cs rest : List ClockCycle}

/-- At any point of an acquisition no more is left than at its START. -/
theorem Block.Running.ticksLeft_le_maxTicks {p : Params} {b : Block} (h : b.Running p) :
    b.ticksLeft p ≤ p.maxTicks := by
  obtain ⟨-, hcnt⟩ := h.cnt
  have hphase := h.phase
  have hbits : 2 * (39 - b.nbit.toNat) * p.budget ≤ 78 * p.budget := Nat.mul_le_mul_right _ (by omega)
  rw [Block.ticksLeft_of_ne_idle hphase, Params.maxTicks, Params.startTicks]
  cases hph : b.phase with
  | idle => exact absurd hph hphase
  | _ =>
    rw [hph] at hcnt
    simp only [Phase.load, Phase.delaysAfter, Phase.waitsAfter, Nat.add_mul, Nat.one_mul] at hcnt ⊢
    omega

theorem ticksIn_append (cs ds : List ClockCycle) : ticksIn (cs ++ ds) = ticksIn cs + ticksIn ds := by
  induction cs with
  | nil => exact (Nat.zero_add _).symm
  | cons c cs ih => rw [List.cons_append, ticksIn, ticksIn, ih, Nat.add_assoc]

theorem stepsIn_append (cs ds : List ClockCycle) : stepsIn (cs ++ ds) = stepsIn cs + stepsIn ds := by
  induction cs with
  | nil => exact (Nat.zero_add _).symm
  | cons c cs ih => rw [List.cons_append, stepsIn, stepsIn, ih, Nat.add_assoc]

/-- An event of a schedule without resets is no reset, and what it leaves of the schedule is without resets too. -/
theorem State.afterEvent_noReset (hne : cs ≠ []) (hinputs : s.inputs = cs ++ rest) (hcs : NoReset cs) :
    s.nextEvent ≠ .reset ∧ ∃ cs', s.afterEvent.inputs = cs' ++ rest ∧ NoReset cs' := by
  obtain ⟨⟨r, a, k⟩, ds, rfl⟩ := List.exists_cons_of_ne_nil hne
  obtain ⟨rfl, hds⟩ : r = false ∧ NoReset ds := List.forall_mem_cons.1 hcs
  cases a with
  | some w =>
    rw [State.nextEvent_access hinputs rfl rfl, State.afterEvent_access hinputs rfl rfl]
    cases k with
    | true => exact ⟨nofun, ClockCycle.plainTick :: ds, rfl, List.forall_mem_cons.2 ⟨rfl, hds⟩⟩
    | false => exact ⟨nofun, ds, rfl, hds⟩
  | none =>
    rw [State.afterEvent_noAccess hinputs rfl]
    cases k with
    | true => rw [State.nextEvent_tick hinputs rfl rfl rfl]; exact ⟨nofun, ds, rfl, hds⟩
    | false => rw [State.nextEvent_quiet hinputs rfl rfl rfl]; exact ⟨nofun, ds, rfl, hds⟩

theorem State.Acquired.congr (h : s.Acquired) (hparams : t.params = s.params) (hblk : t.blk = s.blk) :
    t.Acquired := by
  refine ⟨?_, hblk ▸ h.done⟩
  rw [State.safe_iff, hparams, hblk]
  exact (State.safe_iff s).1 h.safe

/-- A step without a reset goes on with a running acquisition: the host cannot change it, and a tick brings its end
nearer. -/
theorem State.Acquired.of_step (hs : s.Acquired) (hph : s.blk.phase ≠ .idle) (he : s.nextEvent ≠ .reset)
    (h : step s = .next t) :
    t.Acquired ∧
      t.blk.ticksLeft t.params + (if s.nextEvent = .tick then 1 else 0) ≤ s.blk.ticksLeft s.params := by
  by_cases htick : s.nextEvent = .tick
  · have hafter : s.afterEvent.Acquired := hs.congr (State.afterEvent_params s) (State.afterEvent_blk s)
    have hleft := hafter.ticksLeft_tick_le
    have hpos := (hs.running hph).ticksLeft_pos
    rw [State.afterEvent_params, State.afterEvent_blk] at hleft
    rw [step_tick (legal_of_step h) htick] at h
    cases h
    rw [if_pos htick, State.tick_params, State.afterEvent_params]
    exact ⟨hafter.tick, by omega⟩
  · obtain ⟨hparams, hblk | ⟨hreset, -⟩ | ⟨-, -, -, -, -, hidle, -⟩ | ⟨htick', -⟩⟩ := step_blk_cases h
    · rw [if_neg htick, hparams, hblk]
      exact ⟨hs.congr hparams hblk, le_rfl⟩
    · exact absurd hreset he
    · exact absurd (hs.busy_iff.2 hph) (by simp [hidle])
    · exact absurd htick' htick

/-- A schedule without resets that holds the ticks that are left leads to the acquisition's end, and the end takes no
more ticks than those. -/
theorem State.Acquired.exists_run_idle (hs : s.Acquired) (hinputs : s.inputs = cs ++ rest) (hcs : NoReset cs)
    (hticks : s.blk.ticksLeft s.params ≤ ticksIn cs) :
    ∃ n ≤ stepsIn cs, ∃ t, run n s = .next t ∧ t.Acquired ∧ t.blk.phase = .idle ∧
      ticksIn s.inputs ≤ ticksIn t.inputs + s.blk.ticksLeft s.params := by
  induction hm : stepsIn cs using Nat.strong_induction_on generalizing s cs with
  | _ m ih =>
    by_cases hph : s.blk.phase = .idle
    · exact ⟨0, Nat.zero_le _, s, rfl, hs, hph, Nat.le_add_right _ _⟩
    have hpos := (hs.running hph).ticksLeft_pos
    have hne : cs ≠ [] := by
      rintro rfl
      exact absurd (hpos.trans_le hticks) (Nat.lt_irrefl 0)
    obtain ⟨he, cs', hinputs', hcs'⟩ := State.afterEvent_noReset hne hinputs hcs
    obtain ⟨hp, -⟩ := (State.safe_iff s).1 hs.safe
    obtain ⟨u, hu⟩ := step_goes_on hp
    obtain ⟨hacq, hleft⟩ := hs.of_step hph he hu
    obtain ⟨hsteps, hcount⟩ := State.afterEvent_counts (s := s) (by simp [hinputs, hne])
    rw [← step_inputs hu] at hsteps hcount hinputs'
    -- What the step takes off `cs` alone, `rest` being the same before and after it.
    have hsplit := hcount
    rw [hinputs, hinputs', ticksIn_append, ticksIn_append] at hsplit
    rw [hinputs, hinputs', stepsIn_append, stepsIn_append] at hsteps
    obtain ⟨n, hn, t, hrun, hend, hidle, hlast⟩ := ih (stepsIn cs') (by omega) hacq hinputs' hcs' (by omega) rfl
    exact ⟨n + 1, by omega, t, (run_succ n hu).trans hrun, hend, hidle, by omega⟩

end Ending

/-- Settles O45: what is left of the acquisition is within the bound, and the schedule holds that many ticks. -/
theorem everyAcquisitionEnds : Obligations.EveryAcquisitionEnds := by
  refine ⟨fun s cs rest hsafe hbusy hinputs hcs hticks => ?_, rfl⟩
  have hph : s.blk.phase ≠ .idle := by
    obtain ⟨-, ⟨hbusyIff, -⟩, -⟩ := hsafe
    exact hbusyIff.1 hbusy
  have hacq : s.Acquired := ⟨hsafe, fun hidle => absurd hidle hph⟩
  have hmax : s.blk.ticksLeft s.params ≤ s.params.startTicks + 83 * s.params.budget :=
    (hacq.running hph).ticksLeft_le_maxTicks
  obtain ⟨n, hn, t, hrun, hend, hidle, hlast⟩ := hacq.exists_run_idle hinputs hcs (hmax.trans hticks)
  have hdone := hend.done hidle
  obtain ⟨-, ⟨-, hnotBusy, hresult, -⟩, -⟩ := hend.safe
  exact ⟨n, hn, t, hrun, hnotBusy hdone, hdone, hidle, hresult.1 hdone, hlast.trans (Nat.add_le_add_left hmax _)⟩

/-! ### The nominal acquisition (rule R261) -/

/-- The nominal guard low and high pulse of a data bit, in samples. -/
def nominalBit (b : Bool) : Nat × Nat := (50, if b then 70 else 27)

/-- The line of the nominal sensor: 20 highs, the ACK low and high of 80, and the bits. -/
def nominalWave (bits : List Bool) : List Level := wave 20 80 80 (bits.map nominalBit)

section Nominal
variable {s : State} {bits : List Bool} {T : Nat} {ls : List Level} {cs : List ClockCycle} {v : BitVec 40}

/-- The nominal pulses fit in the default budget. -/
theorem nominalBit_bounds (b : Bool) : 1 ≤ (nominalBit b).1 ∧ (nominalBit b).1 ≤ Params.default.budget ∧
    1 ≤ (nominalBit b).2 ∧ (nominalBit b).2 ≤ Params.default.budget := by
  cases b <;> decide

/-- The default threshold tells the nominal pulses apart. -/
theorem classify_nominalBit (b : Bool) : classify Params.default (nominalBit b).2 = b := by
  cases b <;> decide

theorem sum_nominalBit (bits : List Bool) : ((bits.map nominalBit).map fun x => x.1 + x.2).sum =
    50 * bits.length + 27 * bits.count false + 70 * bits.count true := by
  induction bits with
  | nil => rfl
  | cons b bits ih =>
    rw [List.map_cons, List.map_cons, List.sum_cons, ih]
    cases b with
    | false => simp [nominalBit]; omega
    | true => simp [nominalBit]; omega

/-- A nominal acquisition ends at the tick that the numbers of its bits give, with those bits as its frame. -/
theorem run_nominal (hp : s.params = Params.default) (hidle : s.blk.busy = false) (hlen : bits.length = 40)
    (hT : T = 50040 + 21 + 80 + 80 + 40 * 50 + 27 * bits.count false + 70 * bits.count true)
    (hline : s.line = nominalWave bits ++ false :: ls)
    (hinputs : s.inputs = { reset := false, access := some acquireWord, tick := false } :: plainTicks T ++ cs)
    (hv : ∀ j, ∀ hj : j < bits.length, v.getLsbD (39 - j) = bits[j]) :
    (∀ m, 1 ≤ m → m ≤ T → ∃ u, run m s = .next u ∧ u.blk.busy = true) ∧
    ∃ t, run (T + 1) s = .next t ∧ t.blk.busy = false ∧ t.blk.done = true ∧
      (frameValid v = true →
        t.blk.result = .ok ∧
        t.blk.data0 = v.extractLsb' 8 8 ++ v.extractLsb' 16 8 ++ v.extractLsb' 24 8 ++ v.extractLsb' 32 8 ∧
        t.blk.data1 = v.extractLsb' 0 8) := by
  have hbits : ∀ x ∈ bits.map nominalBit, 1 ≤ x.1 ∧ x.1 ≤ s.params.budget ∧ 1 ≤ x.2 ∧ x.2 ≤ s.params.budget := by
    rw [hp]
    exact List.forall_mem_map.2 fun b _ => nominalBit_bounds b
  have hsum : T = s.params.startTicks + (20 + 1) + 80 + 80 + ((bits.map nominalBit).map fun x => x.1 + x.2).sum := by
    rw [sum_nominalBit, hlen, hp, hT, show Params.default.startTicks = 50040 from rfl]
    omega
  have hframe : ∀ j, ∀ hj : j < (bits.map nominalBit).length, v.getLsbD (39 - j) =
      decide (((bits.map nominalBit)[j]).2 * s.params.tickNs > s.params.threshNs) := by
    intro j hj
    rw [List.length_map] at hj
    rw [hv j hj, List.getElem_map, hp]
    exact (classify_nominalBit bits[j]).symm
  obtain ⟨hbusy, t, hrun, -, -, hbusy', hdone, -, -, -, hout⟩ := acquisitionDecodesTheWaveform s 20 80 80
    (bits.map nominalBit) ls cs T v (hp ▸ default_legal) hidle (hp ▸ by decide) (by decide) (hp ▸ by decide)
    (by decide) (hp ▸ by decide) hbits (by rw [List.length_map, hlen]) hsum hline hinputs hframe
  refine ⟨hbusy, t, hrun, hbusy', hdone, fun hvalid => ?_⟩
  rwa [if_pos ((frameValid_iff v).1 hvalid)] at hout

end Nominal

/-- Settles O46: any 40 bits are a frame, and the example's frame has ten 1 bits and a checksum that matches. -/
theorem nominalAcquisitionTiming : Obligations.NominalAcquisitionTiming := by
  refine ⟨fun s bits T ls cs hp hidle hlen hT hline hinputs => ?_, fun s bits ls cs hp hidle hbits hline hinputs => ?_⟩
  · have hv : ∀ j, ∀ hj : j < bits.length, (bits.foldl shiftIn 0#40).getLsbD (39 - j) = bits[j] := by
      intro j hj
      rw [← getLsbD_foldl_shiftIn 0#40 bits hlen.le hj, hlen]
    obtain ⟨hbusy, t, hrun, hbusy', hdone, -⟩ := run_nominal hp hidle hlen hT hline hinputs hv
    exact ⟨hbusy, t, hrun, hbusy', hdone⟩
  · have hzeros : bits.count false = 30 := by subst hbits; decide
    have hones : bits.count true = 10 := by subst hbits; decide
    have hv : ∀ j, ∀ hj : j < bits.length, (0x3200150047#40).getLsbD (39 - j) = bits[j] := by
      subst hbits
      intro j hj
      rw [List.getElem_map, List.getElem_range]
    obtain ⟨hbusy, t, hrun, hbusy', hdone, hok⟩ := run_nominal hp hidle (by rw [hbits]; rfl)
      (by rw [hzeros, hones]) hline hinputs hv
    exact ⟨hbusy, t, hrun, hbusy', hdone, hok (by decide)⟩

end Sys2Proof.Machine
end
